-- ==== Sys2Proof/Word.lean ====
section
/-! DEFINITION. The machine's word types (spec/00_scope.md R2, spec/10_state.md R20, R26, R28). -/

namespace Sys2Proof

/-- An 8-bit unsigned value: a general register, a memory byte, an immediate NN (R20, R82). -/
abbrev Byte := BitVec 8

/-- A 16-bit unsigned value: an instruction word, the PC, I, a return address (R26, R28, R80). -/
abbrev Word := BitVec 16

/-- The 12-bit immediate NNN (R81). -/
abbrev Imm12 := BitVec 12

/-- A 4-bit field of an instruction word (R81). -/
abbrev Nibble := BitVec 4

/-- A register index X or Y: a nibble, so every index names a register (R20, R82). -/
abbrev RegIx := Fin 16

end Sys2Proof
end

