-- ==== Sys2Proof/Syntax.lean ====
section
/-! DEFINITION. The instruction set as data: one constructor per row of spec/opcode_table.json
(spec/30_encoding.md R85), operands as the pattern's letters name them (R82). -/

namespace Sys2Proof

/-- An instruction. The Y field of the two shifts is kept, although it is ignored (R87), so that an
instruction determines its word. -/
inductive Instr where
  /-- 00E0 CLS (R131). -/
  | cls
  /-- 00EE RET (R132). -/
  | ret
  /-- 1NNN JP NNN (R133). -/
  | jp (nnn : Imm12)
  /-- 2NNN CALL NNN (R134). -/
  | call (nnn : Imm12)
  /-- 3XNN SE VX, NN (R151). -/
  | seImm (x : RegIx) (nn : Byte)
  /-- 4XNN SNE VX, NN (R152). -/
  | sneImm (x : RegIx) (nn : Byte)
  /-- 5XY0 SE VX, VY (R153). -/
  | seReg (x y : RegIx)
  /-- 6XNN LD VX, NN (R170). -/
  | ldImm (x : RegIx) (nn : Byte)
  /-- 7XNN ADD VX, NN (R171). -/
  | addImm (x : RegIx) (nn : Byte)
  /-- 8XY0 LD VX, VY (R174). -/
  | ldReg (x y : RegIx)
  /-- 8XY1 OR VX, VY (R175). -/
  | orReg (x y : RegIx)
  /-- 8XY2 AND VX, VY (R176). -/
  | andReg (x y : RegIx)
  /-- 8XY3 XOR VX, VY (R177). -/
  | xorReg (x y : RegIx)
  /-- 8XY4 ADD VX, VY (R178). -/
  | addReg (x y : RegIx)
  /-- 8XY5 SUB VX, VY (R179). -/
  | subReg (x y : RegIx)
  /-- 8XY6 SHR VX, VY; Y is ignored (R180, R184). -/
  | shr (x y : RegIx)
  /-- 8XY7 SUBN VX, VY (R181). -/
  | subnReg (x y : RegIx)
  /-- 8XYE SHL VX, VY; Y is ignored (R182, R184). -/
  | shl (x y : RegIx)
  /-- 9XY0 SNE VX, VY (R154). -/
  | sneReg (x y : RegIx)
  /-- ANNN LD I, NNN (R185). -/
  | ldI (nnn : Imm12)
  /-- BNNN JP V0, NNN (R136). -/
  | jpV0 (nnn : Imm12)
  /-- CXNN RND VX, NN (R186). -/
  | rnd (x : RegIx) (nn : Byte)
  /-- DXYN DRW VX, VY, N (R200). -/
  | drw (x y : RegIx) (n : Fin 16)
  /-- EX9E SKP VX (R156). -/
  | skp (x : RegIx)
  /-- EXA1 SKNP VX (R157). -/
  | sknp (x : RegIx)
  /-- FX07 LD VX, DT (R221). -/
  | ldVxDt (x : RegIx)
  /-- FX0A LD VX, K (R222). -/
  | ldVxK (x : RegIx)
  /-- FX15 LD DT, VX (R223). -/
  | ldDtVx (x : RegIx)
  /-- FX18 LD ST, VX (R224). -/
  | ldStVx (x : RegIx)
  /-- FX1E ADD I, VX (R225). -/
  | addI (x : RegIx)
  /-- FX29 LD F, VX (R226). -/
  | ldF (x : RegIx)
  /-- FX33 LD B, VX (R227). -/
  | ldB (x : RegIx)
  /-- FX55 LD [I], VX (R228). -/
  | storeRegs (x : RegIx)
  /-- FX65 LD VX, [I] (R229). -/
  | loadRegs (x : RegIx)
  deriving DecidableEq, Repr

end Sys2Proof
end

