-- ==== Sys2Proof/WellFormed.lean ====
section
/-! DEFINITION. Well-formed instruction words: the opcode map of spec/30_encoding.md R85 as rows of a
mask and a match, and the test that a word is legal (R86).

The operands' bounds are carried by the types of Syntax.lean (a register index is a `Fin 16`, NN 8 bits,
NNN 12 bits), as R82 says that every value of a field is a legal operand. So every term of `Instr` is
well formed, and the only thing that can be ill formed is a word, which is what is checked here. -/

namespace Sys2Proof

/-- A row of the opcode map (R85): the bits the pattern fixes, and their values. -/
structure OpRow where
  /-- The pattern as the spec writes it. -/
  pattern : String
  /-- 1 where the pattern is fixed. -/
  mask : Word
  /-- The values of the fixed bits. -/
  value : Word
  deriving DecidableEq, Repr

/-- The word matches the row (R85). -/
def OpRow.hit (r : OpRow) (w : Word) : Bool := w &&& r.mask == r.value

/-- Families 0 to 7 of the opcode map (R85). -/
def opcodeRowsLow : List OpRow :=
  [⟨"00E0", 0xFFFF, 0x00E0⟩, ⟨"00EE", 0xFFFF, 0x00EE⟩, ⟨"1NNN", 0xF000, 0x1000⟩, ⟨"2NNN", 0xF000, 0x2000⟩,
   ⟨"3XNN", 0xF000, 0x3000⟩, ⟨"4XNN", 0xF000, 0x4000⟩, ⟨"5XY0", 0xF00F, 0x5000⟩, ⟨"6XNN", 0xF000, 0x6000⟩,
   ⟨"7XNN", 0xF000, 0x7000⟩]

/-- Families 8 and 9 of the opcode map (R85). -/
def opcodeRowsAlu : List OpRow :=
  [⟨"8XY0", 0xF00F, 0x8000⟩, ⟨"8XY1", 0xF00F, 0x8001⟩, ⟨"8XY2", 0xF00F, 0x8002⟩, ⟨"8XY3", 0xF00F, 0x8003⟩,
   ⟨"8XY4", 0xF00F, 0x8004⟩, ⟨"8XY5", 0xF00F, 0x8005⟩, ⟨"8XY6", 0xF00F, 0x8006⟩, ⟨"8XY7", 0xF00F, 0x8007⟩,
   ⟨"8XYE", 0xF00F, 0x800E⟩, ⟨"9XY0", 0xF00F, 0x9000⟩]

/-- Families A to F of the opcode map (R85). -/
def opcodeRowsHigh : List OpRow :=
  [⟨"ANNN", 0xF000, 0xA000⟩, ⟨"BNNN", 0xF000, 0xB000⟩, ⟨"CXNN", 0xF000, 0xC000⟩, ⟨"DXYN", 0xF000, 0xD000⟩,
   ⟨"EX9E", 0xF0FF, 0xE09E⟩, ⟨"EXA1", 0xF0FF, 0xE0A1⟩, ⟨"FX07", 0xF0FF, 0xF007⟩, ⟨"FX0A", 0xF0FF, 0xF00A⟩,
   ⟨"FX15", 0xF0FF, 0xF015⟩, ⟨"FX18", 0xF0FF, 0xF018⟩, ⟨"FX1E", 0xF0FF, 0xF01E⟩, ⟨"FX29", 0xF0FF, 0xF029⟩,
   ⟨"FX33", 0xF0FF, 0xF033⟩, ⟨"FX55", 0xF0FF, 0xF055⟩, ⟨"FX65", 0xF0FF, 0xF065⟩]

/-- The complete opcode map, 34 rows (R85). -/
def opcodeRows : List OpRow := opcodeRowsLow ++ opcodeRowsAlu ++ opcodeRowsHigh

/-- The word is legal: it matches a row of the opcode map. Every other word is illegal (R86). -/
def wellFormedWord (w : Word) : Bool := opcodeRows.any (·.hit w)

end Sys2Proof
end

