-- ==== Sys2Proof/Decode.lean ====
section
/-! DEFINITION. Decoding a word and encoding an instruction (spec/30_encoding.md R80 to R87, R90). -/

namespace Sys2Proof

/-- `n0`: op[15:12], the family selector (R81). -/
def n0 (w : Word) : Nibble := w.extractLsb' 12 4
/-- `n1`: op[11:8] (R81). -/
def n1 (w : Word) : Nibble := w.extractLsb' 8 4
/-- `n2`: op[7:4] (R81). -/
def n2 (w : Word) : Nibble := w.extractLsb' 4 4
/-- `n3 = N`: op[3:0] (R81). -/
def n3 (w : Word) : Nibble := w.extractLsb' 0 4
/-- `NN`: op[7:0] (R81). -/
def nnOf (w : Word) : Byte := w.extractLsb' 0 8
/-- `NNN`: op[11:0] (R81). -/
def nnnOf (w : Word) : Imm12 := w.extractLsb' 0 12
/-- `X = n1` as a register index (R81, R82). -/
def xOf (w : Word) : RegIx := (n1 w).toFin
/-- `Y = n2` as a register index (R81, R82). -/
def yOf (w : Word) : RegIx := (n2 w).toFin

/-- Why a word is no instruction: its family and the selector that no row of the opcode map has (R84,
R86). Executing any such word raises `InvalidOperand`. -/
inductive Reject where
  /-- Family 0, a word that is neither 0x00E0 nor 0x00EE (R130). -/
  | family0
  /-- Family 5 with n3 not 0 (R153). -/
  | family5
  /-- Family 8 with n3 in 8, 9, A, B, C, D, F (R172). -/
  | family8
  /-- Family 9 with n3 not 0 (R154). -/
  | family9
  /-- Family E with NN neither 0x9E nor 0xA1 (R155). -/
  | familyE
  /-- Family F with an unknown NN (R220). -/
  | familyF
  deriving DecidableEq, Repr

/-- Family 0 is decoded on the whole word (R130). -/
def decodeFamily0 (w : Word) : Except Reject Instr :=
  if w = 0x00E0 then .ok .cls
  else if w = 0x00EE then .ok .ret
  else .error .family0

/-- Family 8 selects its operation by `n3` (R172). -/
def decodeFamily8 (w : Word) : Except Reject Instr :=
  if n3 w = 0x0 then .ok (.ldReg (xOf w) (yOf w))
  else if n3 w = 0x1 then .ok (.orReg (xOf w) (yOf w))
  else if n3 w = 0x2 then .ok (.andReg (xOf w) (yOf w))
  else if n3 w = 0x3 then .ok (.xorReg (xOf w) (yOf w))
  else if n3 w = 0x4 then .ok (.addReg (xOf w) (yOf w))
  else if n3 w = 0x5 then .ok (.subReg (xOf w) (yOf w))
  else if n3 w = 0x6 then .ok (.shr (xOf w) (yOf w))
  else if n3 w = 0x7 then .ok (.subnReg (xOf w) (yOf w))
  else if n3 w = 0xE then .ok (.shl (xOf w) (yOf w))
  else .error .family8

/-- Family E is decoded on `NN` (R155). -/
def decodeFamilyE (w : Word) : Except Reject Instr :=
  if nnOf w = 0x9E then .ok (.skp (xOf w))
  else if nnOf w = 0xA1 then .ok (.sknp (xOf w))
  else .error .familyE

/-- Family F is selected by the low byte (R220). -/
def decodeFamilyF (w : Word) : Except Reject Instr :=
  if nnOf w = 0x07 then .ok (.ldVxDt (xOf w))
  else if nnOf w = 0x0A then .ok (.ldVxK (xOf w))
  else if nnOf w = 0x15 then .ok (.ldDtVx (xOf w))
  else if nnOf w = 0x18 then .ok (.ldStVx (xOf w))
  else if nnOf w = 0x1E then .ok (.addI (xOf w))
  else if nnOf w = 0x29 then .ok (.ldF (xOf w))
  else if nnOf w = 0x33 then .ok (.ldB (xOf w))
  else if nnOf w = 0x55 then .ok (.storeRegs (xOf w))
  else if nnOf w = 0x65 then .ok (.loadRegs (xOf w))
  else .error .familyF

/-- The decoder: first-level dispatch on `n0`, which has a family for each of its 16 values, then the
family's own selector (R83, R84). Decoding has no side effect (R81). -/
def decodeWord (w : Word) : Except Reject Instr :=
  if n0 w = 0x0 then decodeFamily0 w
  else if n0 w = 0x1 then .ok (.jp (nnnOf w))
  else if n0 w = 0x2 then .ok (.call (nnnOf w))
  else if n0 w = 0x3 then .ok (.seImm (xOf w) (nnOf w))
  else if n0 w = 0x4 then .ok (.sneImm (xOf w) (nnOf w))
  else if n0 w = 0x5 then if n3 w = 0 then .ok (.seReg (xOf w) (yOf w)) else .error .family5
  else if n0 w = 0x6 then .ok (.ldImm (xOf w) (nnOf w))
  else if n0 w = 0x7 then .ok (.addImm (xOf w) (nnOf w))
  else if n0 w = 0x8 then decodeFamily8 w
  else if n0 w = 0x9 then if n3 w = 0 then .ok (.sneReg (xOf w) (yOf w)) else .error .family9
  else if n0 w = 0xA then .ok (.ldI (nnnOf w))
  else if n0 w = 0xB then .ok (.jpV0 (nnnOf w))
  else if n0 w = 0xC then .ok (.rnd (xOf w) (nnOf w))
  else if n0 w = 0xD then .ok (.drw (xOf w) (yOf w) (n3 w).toFin)
  else if n0 w = 0xE then decodeFamilyE w
  else decodeFamilyF w

/-- An instruction word is big-endian: the byte at PC is the high byte (spec/20_memory.md R58). -/
def wordOfBytes (hi lo : Byte) : Word := (hi.setWidth 16 <<< 8) ||| lo.setWidth 16

/-- The high byte of a word (R58, R81). -/
def highByte (w : Word) : Byte := w.extractLsb' 8 8

/-- The low byte of a word (R58, R81). -/
def lowByte (w : Word) : Byte := w.extractLsb' 0 8

/-- Decoding the two bytes of an instruction in fetch order (R58, R80). -/
def decodeBytes (hi lo : Byte) : Except Reject Instr := decodeWord (wordOfBytes hi lo)

/-- A register index as the nibble that encodes it. -/
def nibbleOf (x : RegIx) : Nibble := BitVec.ofFin x

/-- A word of four nibbles, the family first (R81, R90). -/
def word4 (f x y n : Nibble) : Word :=
  (f.setWidth 16 <<< 12) ||| (x.setWidth 16 <<< 8) ||| (y.setWidth 16 <<< 4) ||| n.setWidth 16

/-- A word of a family, X and an 8-bit field (R81, R90). -/
def wordX8 (f x : Nibble) (nn : Byte) : Word := (f.setWidth 16 <<< 12) ||| (x.setWidth 16 <<< 8) ||| nn.setWidth 16

/-- A word of a family and a 12-bit field (R81, R90). -/
def word12 (f : Nibble) (nnn : Imm12) : Word := (f.setWidth 16 <<< 12) ||| nnn.setWidth 16

/-- The word of an instruction (R85, R90). -/
def encode : Instr → Word
  | .cls => 0x00E0
  | .ret => 0x00EE
  | .jp nnn => word12 0x1 nnn
  | .call nnn => word12 0x2 nnn
  | .seImm x nn => wordX8 0x3 (nibbleOf x) nn
  | .sneImm x nn => wordX8 0x4 (nibbleOf x) nn
  | .seReg x y => word4 0x5 (nibbleOf x) (nibbleOf y) 0x0
  | .ldImm x nn => wordX8 0x6 (nibbleOf x) nn
  | .addImm x nn => wordX8 0x7 (nibbleOf x) nn
  | .ldReg x y => word4 0x8 (nibbleOf x) (nibbleOf y) 0x0
  | .orReg x y => word4 0x8 (nibbleOf x) (nibbleOf y) 0x1
  | .andReg x y => word4 0x8 (nibbleOf x) (nibbleOf y) 0x2
  | .xorReg x y => word4 0x8 (nibbleOf x) (nibbleOf y) 0x3
  | .addReg x y => word4 0x8 (nibbleOf x) (nibbleOf y) 0x4
  | .subReg x y => word4 0x8 (nibbleOf x) (nibbleOf y) 0x5
  | .shr x y => word4 0x8 (nibbleOf x) (nibbleOf y) 0x6
  | .subnReg x y => word4 0x8 (nibbleOf x) (nibbleOf y) 0x7
  | .shl x y => word4 0x8 (nibbleOf x) (nibbleOf y) 0xE
  | .sneReg x y => word4 0x9 (nibbleOf x) (nibbleOf y) 0x0
  | .ldI nnn => word12 0xA nnn
  | .jpV0 nnn => word12 0xB nnn
  | .rnd x nn => wordX8 0xC (nibbleOf x) nn
  | .drw x y n => word4 0xD (nibbleOf x) (nibbleOf y) (nibbleOf n)
  | .skp x => wordX8 0xE (nibbleOf x) 0x9E
  | .sknp x => wordX8 0xE (nibbleOf x) 0xA1
  | .ldVxDt x => wordX8 0xF (nibbleOf x) 0x07
  | .ldVxK x => wordX8 0xF (nibbleOf x) 0x0A
  | .ldDtVx x => wordX8 0xF (nibbleOf x) 0x15
  | .ldStVx x => wordX8 0xF (nibbleOf x) 0x18
  | .addI x => wordX8 0xF (nibbleOf x) 0x1E
  | .ldF x => wordX8 0xF (nibbleOf x) 0x29
  | .ldB x => wordX8 0xF (nibbleOf x) 0x33
  | .storeRegs x => wordX8 0xF (nibbleOf x) 0x55
  | .loadRegs x => wordX8 0xF (nibbleOf x) 0x65

/-- The word whose bits, numbered as spec/opcode_table.json numbers them, are the low `nbits` bits of `w`;
every bit above them is 0. The hardware has one 16-bit word per instruction (R80). -/
def tableWord (nbits w : Nat) : Word := BitVec.ofNat 16 (w % 2 ^ nbits)

/-- The instruction the decoder reads from a word numbered as the opcode table numbers it, laid out in
memory order (high byte first, R58). -/
def decodeTableWord (nbits w : Nat) : Option Instr :=
  match decodeBytes (highByte (tableWord nbits w)) (lowByte (tableWord nbits w)) with
  | .ok i => some i
  | .error _ => none

end Sys2Proof
end

