-- ==== Sys2Proof/Machine/Flags.lean ====
section
/-! DEFINITION. The values VF receives as a flag (spec/43_data_alu.md R173, R178 to R182, spec/44_draw.md R200). -/

namespace Sys2Proof.Machine

/-- A flag as a register value: 1 or 0. -/
def flagByte (b : Bool) : Byte := if b then 1 else 0

/-- ADD's carry: 1 exactly when the unsigned sum exceeds 255 (R173, R178). -/
def carryFlag (a b : Byte) : Byte := flagByte (decide (a.toNat + b.toNat > 255))

/-- SUB's and SUBN's not-borrow: 1 exactly when the minuend is strictly greater (R173, R179, R181). -/
def notBorrowFlag (minuend subtrahend : Byte) : Byte := flagByte (decide (minuend.toNat > subtrahend.toNat))

/-- SHR's bit shifted out: bit 0 (R180). -/
def shrFlag (a : Byte) : Byte := a &&& 0x01

/-- SHL's bit shifted out: bit 7 (R182). -/
def shlFlag (a : Byte) : Byte := (a >>> 7) &&& 0x01

end Sys2Proof.Machine
end

