-- ==== Sys2Proof/Config.lean ====
section
/-! DEFINITION. The implementation parameters of spec/00_scope.md R2: those with a value in this hardware, and
those the spec leaves OPEN, which are constants with no body, as are the streams of free draws (R10). No
proof can see the value of a constant with no body, so a theorem holds for every value of it. -/

namespace Sys2Proof

/-- `BASE`: the load offset and lowest memory address (R2). -/
def Config.base : Nat := 0x200

/-- `MEM_SIZE`: the number of memory bytes (R2, R3). -/
def Config.memSize : Nat := 3584

/-- `TICK = 1/60 s`, the timers' decrement interval (R2). -/
def Config.tick : Rat := 1 / 60

/-- `TICK_HZ`: ticks in a second (R2). -/
def Config.tickHz : Rat := 60

/-- `INSN_BYTES`: the instruction width in bytes (R2). -/
def Config.insnBytes : Nat := 2

/-- `DISPLAY_W` (R2). -/
def Config.displayW : Nat := 64

/-- `DISPLAY_H` (R2). -/
def Config.displayH : Nat := 32

/-- The glyph table's shape: 16 glyphs of 5 rows of 8 bits, bit 7 the leftmost pixel (spec/20_memory.md R55). -/
abbrev Font := Vector (Vector Byte 5) 16

/-- The display's pixels: row `py` is a 64-bit value whose bit `px` is the pixel at column `px` of that row
(spec/60_exceptions.md R278). DESIGN CHOICE, safe: the numbering of the bits inside a row is the model's own
(log entry 9). -/
abbrev Framebuffer := Vector (BitVec 64) 32

/-- The default value of `FONT`, from general knowledge (R57). No meaning of the model reads it: the machine's
glyph table is `Config.font`. It is here for statements that name the default. -/
def Config.defaultFont : Font :=
  #v[#v[0xF0, 0x90, 0x90, 0x90, 0xF0], #v[0x20, 0x60, 0x20, 0x20, 0x70],
     #v[0xF0, 0x10, 0xF0, 0x80, 0xF0], #v[0xF0, 0x10, 0xF0, 0x10, 0xF0],
     #v[0x90, 0x90, 0xF0, 0x10, 0x10], #v[0xF0, 0x80, 0xF0, 0x10, 0xF0],
     #v[0xF0, 0x80, 0xF0, 0x90, 0xF0], #v[0xF0, 0x10, 0x20, 0x40, 0x40],
     #v[0xF0, 0x90, 0xF0, 0x90, 0xF0], #v[0xF0, 0x90, 0xF0, 0x10, 0xF0],
     #v[0xF0, 0x90, 0xF0, 0x90, 0x90], #v[0xE0, 0x90, 0xE0, 0x90, 0xE0],
     #v[0xF0, 0x80, 0x80, 0x80, 0xF0], #v[0xE0, 0x90, 0x90, 0x90, 0xE0],
     #v[0xF0, 0x80, 0xF0, 0x80, 0xF0], #v[0xF0, 0x80, 0xF0, 0x80, 0x80]]

/-- `GLYPH_BASE` as a bounded number: OPEN in the spec (R2, D4), constrained to `GLYPH_BASE + 16 <= BASE`, so at
most 496. No body: safe, every admitted value is covered (log entry 4). -/
opaque Config.glyphBaseBounded : Fin 497

/-- `GLYPH_BASE`: the first glyph-space value of I (R2). -/
def Config.glyphBase : Nat := Config.glyphBaseBounded.val

/-- `FONT`: the 16 x 5 glyph bytes, a parameter a model must not assume (R57, D5). No body: safe (log entry 5). -/
opaque Config.font : Font

/-- `FB_INIT`: the display contents before the first draw, OPEN in the spec (R2, D37). No body: safe (log entry 6). -/
opaque Config.fbInit : Framebuffer

/-- `WAIT_TIME_CREDITED`: whether time blocked in FX0A reaches the tick accumulator after the wait, OPEN in the
spec (R273, D21). No body: safe (log entry 7). -/
opaque Config.waitTimeCredited : Bool

/-- Free values: the answer of the n-th draw if it is `Clock.elapsed()`, a rational number of seconds, at least 0
(R282). No body: safe (log entry 2). -/
opaque Config.clockElapsed : Nat → NNRat

/-- Free values: the answer of the n-th draw if it is `Input.poll()`, any 16-bit snapshot (R279). No body: safe
(log entry 2). -/
opaque Config.pollKeys : Nat → BitVec 16

/-- Free values: the answer of the n-th draw if it is `Rng.byte()`, any byte (R281). No body: safe (log entry 2). -/
opaque Config.rngByte : Nat → Byte

/-- Free values: what `Input.wait_for_key()` has answered at the n-th draw: a key from 0 to 15, or nothing yet. All
`none` from some draw on is the hang of R280. No body: safe (log entry 2). -/
opaque Config.keyEvent : Nat → Option (Fin 16)

end Sys2Proof
end

