-- ==== Sys2Proof/Machine/State.lean ====
section
/-! DEFINITION. The machine's state as plain data (spec/10_state.md, spec/60_exceptions.md R250, R253, R278), its
reset value (spec/70_reset_and_hazards.md R290), and the reasons a step can stop. -/

namespace Sys2Proof.Machine

/-- The fault kinds of R250, in its order. -/
inductive FaultKind where
  /-- Code 1. Unreachable: `n0` is always 0 to 15 (R106). No definition of the model raises it. -/
  | decodeError
  /-- Code 2: executing an illegal word (R86). -/
  | invalidOperand
  /-- Code 3: a PC write or a memory access outside the window, or DXYN with I below BASE outside glyph space. -/
  | invalidAddress
  /-- Code 4. Unreachable: register indices are 4-bit fields. No definition of the model raises it. -/
  | invalidRegisterIndex
  /-- Code 5: CALL with 16 entries on the stack (R134). -/
  | stackOverflow
  /-- Code 6: RET with an empty stack (R132). -/
  | stackUnderflow
  /-- Code 7: EX9E or EXA1 with `V[X] > 15` (R158). -/
  | keyRange
  /-- Code 8: a glyph row beyond 4 (R56), or FX29 with `V[X] > 15` (R226). -/
  | glyphRange
  deriving DecidableEq, Repr

/-- The codes of R250. -/
def FaultKind.code : FaultKind → Nat
  | .decodeError => 1
  | .invalidOperand => 2
  | .invalidAddress => 3
  | .invalidRegisterIndex => 4
  | .stackOverflow => 5
  | .stackUnderflow => 6
  | .keyRange => 7
  | .glyphRange => 8

/-- The `info` column of R250. -/
inductive FaultInfo where
  /-- Nothing is recorded. -/
  | none
  /-- The illegal word. -/
  | word (op : Word)
  /-- The offending address or target, an exact natural number (R54). -/
  | address (a : Nat)
  /-- The register value `V[X]`. -/
  | value (v : Byte)
  /-- The pair `(g, r)`, or `(V[X], 0)`. -/
  | glyph (g r : Nat)
  deriving DecidableEq, Repr

/-- The error record of R253. Its code is computed from its kind. -/
structure ErrRecord where
  /-- The fault's kind. -/
  kind : FaultKind
  /-- `pc0`, the PC at the start of phase (d). -/
  pc : Word
  /-- The fetched word; none when the fetch itself or consuming a skip faulted. -/
  op : Option Word
  /-- As R250 lists it. -/
  info : FaultInfo
  deriving DecidableEq, Repr

/-- The record's numeric code (R250, R253). -/
def ErrRecord.code (e : ErrRecord) : Nat := e.kind.code

/-- The run state of R38. -/
inductive RunState where
  /-- The loop iterates. -/
  | running
  /-- FX0A is blocked in phase (d) and will write the key into `V[x]`. -/
  | waitingKey (x : RegIx)
  /-- A fatal error has ended the loop. -/
  | halted (err : ErrRecord)
  deriving DecidableEq, Repr

/-- Main memory as (address, byte) pairs: addresses strictly rising and inside the window, no entry 0, which is what an
unlisted address of the window holds ("memory zeroed", R290). -/
abbrev Memory := List Host.Cell

/-- Everything the spec gives the machine, the reference display device of R278, and three fields of the model's own. -/
structure State where
  /-- V[0] to V[15] (R20). -/
  v : Vector Byte 16
  /-- The address register I (R26). -/
  i : Word
  /-- The program counter (R28). -/
  pc : Word
  /-- The stack depth, 0 to 16 (R30). -/
  sp : Fin 17
  /-- The stack entries (R30, R32). -/
  stack : Vector Word 16
  /-- The delay timer (R33). -/
  dt : Byte
  /-- The sound timer (R33). -/
  st : Byte
  /-- The pending-skip counter (R35). -/
  skip : Nat
  /-- The tick accumulator, in seconds (R36). -/
  acc : Rat
  /-- The key snapshot of the last poll (R37). -/
  keys : BitVec 16
  /-- The run state (R38). -/
  run : RunState
  /-- Main memory (R50). -/
  mem : Memory
  /-- The display's pixels (R278), state of the external display. -/
  fb : Framebuffer
  /-- The canvas size once `set_extents` was called (R277), state of the external display. -/
  extents : Option (Nat × Nat)
  /-- The model's own: the loop has started, so `load` is no longer accepted (R292). -/
  started : Bool
  /-- The model's own: seconds blocked in FX0A that no timer phase has seen yet (R273). -/
  blocked : Rat
  /-- The model's own: the index of the next free draw (R10). -/
  draws : Nat
  deriving DecidableEq, Repr

/-- Why a step stops with a fault. -/
inductive Fault where
  /-- Raised by `step` in `Halted(err)`, where no step is enabled (R114, R257). Safe: the block does nothing there. -/
  | halted
  deriving DecidableEq, Repr

/-- Why an action is refused. -/
inductive Refusal where
  /-- Raised by `exec` for an instruction that has no meaning yet; no arm does. Safe: nothing is claimed of it. -/
  | notModelled (mnemonic : String)
  /-- Raised by `load` once the loop has started (R285, R292, U17). Safe: the block accepts no such load. -/
  | loadAfterStart
  deriving DecidableEq, Repr

/-- What one step, or one instruction, answers. -/
abbrev Result := Host.Outcome State Fault Refusal

/-- The machine right after reset (R290, R40). The fields `extents`, `started`, `blocked` and `draws` are not the
block's: their values here are DESIGN CHOICE (log entries 2, 7 and 11). -/
def State.reset : State where
  v := Vector.replicate 16 0
  i := 0
  pc := BitVec.ofNat 16 Config.base
  sp := 0
  stack := Vector.replicate 16 0
  dt := 0
  st := 0
  skip := 0
  acc := 0
  keys := 0
  run := .running
  mem := []
  fb := Config.fbInit
  extents := none
  started := false
  blocked := 0
  draws := 0

end Sys2Proof.Machine
end

