-- ==== Sys2Proof/Machine/Ops.lean ====
section
/-! DEFINITION. The named operations over registers, memory, the call stack, the display and the PC, and taking a
fatal error (spec/10_state.md, spec/20_memory.md, spec/40_interpreter_loop.md R105, R107, spec/60_exceptions.md
R252 to R254, R276 to R278). -/

namespace Sys2Proof.Machine

/-! ## Registers -/

/-- VF, the flag register, is `V[15]` (R21). -/
def vf : RegIx := 15

/-- `V[x]` (R5). -/
def State.reg (s : State) (x : RegIx) : Byte := s.v.get x

/-- `V[x] <- b` (R5). -/
def State.setReg (s : State) (x : RegIx) (b : Byte) : State := { s with v := s.v.set x.val b x.isLt }

/-- `I <- w` (R26). -/
def State.setI (s : State) (w : Word) : State := { s with i := w }

/-- `PC <- w`, after its check (R28, R107). -/
def State.setPc (s : State) (w : Word) : State := { s with pc := w }

/-- `DT <- b` (R34). -/
def State.setDt (s : State) (b : Byte) : State := { s with dt := b }

/-- `ST <- b` (R34). -/
def State.setSt (s : State) (b : Byte) : State := { s with st := b }

/-- `run <- r` (R38). -/
def State.setRun (s : State) (r : RunState) : State := { s with run := r }

/-- The memory replaced as a whole, by the operations below. -/
def State.setMem (s : State) (m : Memory) : State := { s with mem := m }

/-- One free draw is taken from the external contracts (R10). -/
def State.nextDraw (s : State) : State := { s with draws := s.draws + 1 }

/-- `RequestSkip(cond)`: a condition that holds increments the pending-skip counter (R150). -/
def State.requestSkip (s : State) (cond : Bool) : State := { s with skip := s.skip + cond.toNat }

/-- The key the last poll showed as down (R279). -/
def State.isDown (s : State) (k : Byte) : Bool := s.keys.getLsbD k.toNat

/-! ## Raising -/

/-- What a check that fails raises: a kind and its info (R250). -/
structure Raised where
  /-- The fault's kind. -/
  kind : FaultKind
  /-- What is recorded with it. -/
  info : FaultInfo
  deriving DecidableEq, Repr

/-- `InvalidAddress(a)` (R250). -/
def invalidAddress (a : Nat) : Raised := ⟨.invalidAddress, .address a⟩

/-- Taking a fatal error in phase (d) (R252 to R254): `s0` is the state at the start of the phase and `s1` the one at
the failing check. The core state goes back to `s0`; what the external contracts were asked for, the display's pixels
and the draws taken, stays as in `s1`; the record names `s0`'s PC. -/
def raise (op : Option Word) (s0 s1 : State) (r : Raised) : State :=
  { s0 with run := .halted ⟨r.kind, s0.pc, op, r.info⟩, fb := s1.fb, draws := s1.draws }

/-! ## The window and the PC -/

/-- The valid logical addresses, `[BASE, BASE + MEM_SIZE)` (R3, R50). -/
abbrev InWindow (a : Nat) : Prop := Config.base ≤ a ∧ a < Config.base + Config.memSize

/-- `CheckPC(t)` (R107): the checked target as a PC value. -/
def checkPc (t : Nat) : Except Raised Word :=
  if InWindow t then .ok (BitVec.ofNat 16 t) else .error (invalidAddress t)

/-- A checked write of the PC (R107), by an instruction whose phase (d) began in `s0`. -/
def writePc (op : Option Word) (s0 s1 : State) (t : Nat) : State :=
  match checkPc t with
  | .ok w => s1.setPc w
  | .error r => raise op s0 s1 r

/-- `AdvanceOrJump(false)` (R105): the PC the handler left, plus the instruction width. -/
def advance (op : Option Word) (s0 s1 : State) : State := writePc op s0 s1 (s1.pc.toNat + Config.insnBytes)

/-- The rest of phase (d) for a handler that may raise before it calls an external contract and otherwise returns
`jumped = false` (R104, R105, R252). -/
def tryAdvance (op : Option Word) (s0 : State) (h : Except Raised State) : State :=
  match h with
  | .error r => raise op s0 s0 r
  | .ok s1 => advance op s0 s1

/-! ## Memory -/

/-- The byte at a logical address of the window: a listed one, else 0 ("memory zeroed", R290). -/
def Memory.read : Memory → Nat → Byte
  | [], _ => 0
  | (b, w) :: m, a => if a = b then w else Memory.read m a

/-- A byte put in front of the cells above its address, unless it is 0, what an unlisted address holds. -/
def Memory.cons (a : Nat) (b : Byte) (m : Memory) : Memory := if b = 0 then m else (a, b) :: m

/-- The memory with one byte replaced, in canonical form. -/
def Memory.write : Memory → Nat → Byte → Memory
  | [], a, b => Memory.cons a b []
  | (c, w) :: m, a, b =>
    if a < c then Memory.cons a b ((c, w) :: m)
    else if a = c then Memory.cons a b m
    else (c, w) :: Memory.write m a b

/-- Canonical form from an address on: rising addresses inside the window and no 0. -/
def Memory.wfFrom : Nat → Memory → Bool
  | _, [] => true
  | lo, (a, b) :: m =>
    decide (lo ≤ a) && decide (a < Config.base + Config.memSize) && (b != 0) && Memory.wfFrom (a + 1) m

/-- The canonical form of memory: addresses strictly rising, all of them in the window, no entry 0. -/
def Memory.wf (m : Memory) : Bool := Memory.wfFrom Config.base m

/-- `MemRead(a, 1)` (R53). -/
def memRead (m : Memory) (a : Nat) : Except Raised Byte :=
  if InWindow a then .ok (m.read a) else .error (invalidAddress a)

/-- `MemWrite(a, 1, b)` (R53). -/
def memWrite (m : Memory) (a : Nat) (b : Byte) : Except Raised Memory :=
  if InWindow a then .ok (m.write a b) else .error (invalidAddress a)

/-- `n` byte reads at rising addresses from `a`; the first address outside the window raises (R54, R59). -/
def readBytes (m : Memory) (a : Nat) : Nat → Except Raised (List Byte)
  | 0 => .ok []
  | n + 1 =>
    match memRead m a with
    | .error r => .error r
    | .ok b =>
      match readBytes m (a + 1) n with
      | .error r => .error r
      | .ok bs => .ok (b :: bs)

/-- Byte writes at rising addresses from `a`; the first address outside the window raises (R54, R59). -/
def writeBytes (m : Memory) (a : Nat) : List Byte → Except Raised Memory
  | [] => .ok m
  | b :: bs =>
    match memWrite m a b with
    | .error r => .error r
    | .ok m' => writeBytes m' (a + 1) bs

/-- The copying loop of `load`, with no check: the image is cut to the memory size first (R62). -/
def copyImage (m : Memory) (a : Nat) : List Byte → Memory
  | [] => m
  | b :: bs => copyImage (m.write a b) (a + 1) bs

/-- `load(img)`: the image is copied from BASE on, cut off at the memory size; accepted only before the first
iteration (R62, R285, R292). -/
def State.load (s : State) (img : List Byte) : Result :=
  if s.started then .refused .loadAfterStart
  else .next (s.setMem (copyImage s.mem Config.base (img.take Config.memSize)))

/-! ## The call stack -/

/-- Push (R31): StackOverflow when 16 entries are live. -/
def State.push (s : State) (w : Word) : Except Raised State :=
  if h : s.sp.val < 16 then
    .ok { s with stack := s.stack.set s.sp.val w h, sp := ⟨s.sp.val + 1, by omega⟩ }
  else .error ⟨.stackOverflow, .none⟩

/-- Pop (R31) into the PC, as RET does (R132); StackUnderflow when no entry is live. The entry keeps its stale
value (R32), and the popped address is not window-checked (R132). -/
def State.popPc (s : State) : Except Raised State :=
  if h : s.sp.val = 0 then .error ⟨.stackUnderflow, .none⟩
  else .ok { s with pc := s.stack[s.sp.val - 1]'(by omega), sp := ⟨s.sp.val - 1, by omega⟩ }

/-! ## The display, as R278's reference device -/

/-- The pixel at column `px`, row `py`, each reduced modulo the canvas size (R278). -/
def pixel (fb : Framebuffer) (px py : Nat) : Bool :=
  (fb[py % 32]'(Nat.mod_lt _ (by decide))).getLsbD (px % 64)

/-- The pixel at column `px`, row `py` inverted, each reduced modulo the canvas size (R278). -/
def togglePixel (fb : Framebuffer) (px py : Nat) : Framebuffer :=
  fb.set (py % 32) (fb[py % 32]'(Nat.mod_lt _ (by decide)) ^^^ (1#64 <<< (px % 64))) (Nat.mod_lt _ (by decide))

/-- One row of the sprite from column `x` on: the pixels and whether any set pixel was cleared so far (R278). -/
def drawRow (x y : Nat) : List Bool → Framebuffer × Bool → Framebuffer × Bool
  | [], d => d
  | b :: bs, (fb, collided) =>
    drawRow (x + 1) y bs (if b then (togglePixel fb x y, collided || pixel fb x y) else (fb, collided))

/-- The sprite's rows from row `y` on (R278). -/
def drawGrid (x y : Nat) : List (List Bool) → Framebuffer × Bool → Framebuffer × Bool
  | [], d => d
  | row :: rows, d => drawGrid x (y + 1) rows (drawRow x y row d)

/-- `Display.draw_sprite(x, y, h, grid)`: the new pixels and `collided` (R278); `h` is the grid's length. -/
def drawSprite (fb : Framebuffer) (x y : Nat) (grid : List (List Bool)) : Framebuffer × Bool :=
  drawGrid x y grid (fb, false)

/-- The canvas with every pixel unset (R276). -/
def blankCanvas : Framebuffer := Vector.replicate 32 0

/-- `Display.clear()`: afterwards every pixel is unset (R276). -/
def State.clearDisplay (s : State) : State := { s with fb := blankCanvas }

/-- The display's pixels replaced, by a draw. -/
def State.setFb (s : State) (fb : Framebuffer) : State := { s with fb := fb }

/-- `Display.set_extents(width, height)` (R277). -/
def State.setExtents (s : State) (width height : Nat) : State := { s with extents := some (width, height) }

/-! ## The block's outputs -/

/-- `sound_active = (ST != 0)` (R283). -/
def State.soundActive (s : State) : Bool := s.st != 0

/-- The fault-report output: the record when halted, else none (R284). -/
def State.faultReport (s : State) : Option ErrRecord :=
  match s.run with
  | .halted e => some e
  | .running => none
  | .waitingKey _ => none

end Sys2Proof.Machine
end

