-- ==== Sys2Proof/Machine/Operands.lean ====
section
/-! DEFINITION. The operand forms: the indexed jump target, the decimal digits, the register lists, and the sprite
source with its unpacking (spec/41_control_flow.md R136, spec/45_misc_fx.md R227 to R229, spec/44_draw.md R201, R202,
spec/20_memory.md R56). -/

namespace Sys2Proof.Machine

/-- BNNN's target `(NNN + V[0]) mod 0x1000` (R136). -/
def indexedTarget (nnn : Imm12) (v0 : Byte) : Nat := (nnn.toNat + v0.toNat) % 0x1000

/-- The hundreds, tens and ones of a byte (R227). -/
def decimalDigits (d : Byte) : List Byte :=
  [BitVec.ofNat 8 (d.toNat / 100), BitVec.ofNat 8 (d.toNat / 10 % 10), BitVec.ofNat 8 (d.toNat % 10)]

/-- V[0] to V[X], in order (R228). -/
def State.regsUpTo (s : State) (x : RegIx) : List Byte := s.v.toList.take (x.val + 1)

/-- Bytes into the registers from index `k` on, in order (R229). -/
def putRegs (v : Vector Byte 16) (k : Nat) : List Byte → Vector Byte 16
  | [] => v
  | b :: bs => putRegs (v.setIfInBounds k b) (k + 1) bs

/-- The registers replaced as a whole, by a load of several. -/
def State.setRegs (s : State) (v : Vector Byte 16) : State := { s with v := v }

/-- `I <- (I + X + 1) mod 2^16`, the advance of FX55 and FX65 (R228, R229). -/
def State.advanceI (s : State) (x : RegIx) : State := s.setI (s.i + BitVec.ofNat 16 (x.val + 1))

/-- I as an effective address: an exact natural number (R54). -/
def State.iAddr (s : State) : Nat := s.i.toNat

/-- `KeyCheck(k)` (R158). -/
def keyCheck (k : Byte) : Except Raised Byte :=
  if k.toNat > 15 then .error ⟨.keyRange, .value k⟩ else .ok k

/-- `GLYPH_BASE + d` for a hexadecimal digit; GlyphRange for a larger register value (R226). -/
def glyphAddress (glyphBase : Nat) (d : Byte) : Except Raised Word :=
  if d.toNat > 15 then .error ⟨.glyphRange, .glyph d.toNat 0⟩
  else .ok (BitVec.ofNat 16 (glyphBase + d.toNat))

/-- `GlyphRead(g, r)` (R56). -/
def glyphRead (font : Font) (g r : Nat) : Except Raised Byte :=
  if h : g < 16 ∧ r < 5 then .ok (font[g][r]) else .error ⟨.glyphRange, .glyph g r⟩

/-- `n` rows of glyph `g` from row `r` on (R201). -/
def glyphRows (font : Font) (g r : Nat) : Nat → Except Raised (List Byte)
  | 0 => .ok []
  | n + 1 =>
    match glyphRead font g r with
    | .error e => .error e
    | .ok b =>
      match glyphRows font g (r + 1) n with
      | .error e => .error e
      | .ok bs => .ok (b :: bs)

/-- `SpriteRows(I, h)` for a GLYPH_BASE and a FONT (R201): no row for height 0, else the glyph table in glyph space, a
fault in the rest of the reserved low range, and main memory from BASE on. -/
def spriteRows (glyphBase : Nat) (font : Font) (m : Memory) (i h : Nat) : Except Raised (List Byte) :=
  if h = 0 then .ok []
  else if glyphBase ≤ i ∧ i < glyphBase + 16 then glyphRows font (i - glyphBase) 0 h
  else if i < Config.base then .error (invalidAddress i)
  else readBytes m i h

/-- One sprite row: 8 pixels, most significant bit first (R202). -/
def unpackRow (b : Byte) : List Bool :=
  [b.getLsbD 7, b.getLsbD 6, b.getLsbD 5, b.getLsbD 4, b.getLsbD 3, b.getLsbD 2, b.getLsbD 1, b.getLsbD 0]

/-- `Unpack(rows, h)` (R202). -/
def unpack (rows : List Byte) : List (List Bool) := rows.map unpackRow

end Sys2Proof.Machine
end

