-- ==== Sys2Proof/Machine/Alu.lean ====
section
/-! DEFINITION. The meanings of families 6, 7, 8, A and C (spec/43_data_alu.md). -/

namespace Sys2Proof.Machine

/-- LD VX, NN (R170). -/
def execLdImm (x : RegIx) (nn : Byte) (s : State) : Result :=
  .next (advance (some (encode (.ldImm x nn))) s (s.setReg x nn))

/-- ADD VX, NN (R171): no flag. -/
def execAddImm (x : RegIx) (nn : Byte) (s : State) : Result :=
  .next (advance (some (encode (.addImm x nn))) s (s.setReg x (s.reg x + nn)))

/-- LD VX, VY (R174). -/
def execLdReg (x y : RegIx) (s : State) : Result :=
  .next (advance (some (encode (.ldReg x y))) s (s.setReg x (s.reg y)))

/-- OR VX, VY (R175). -/
def execOrReg (x y : RegIx) (s : State) : Result :=
  .next (advance (some (encode (.orReg x y))) s (s.setReg x (s.reg x ||| s.reg y)))

/-- AND VX, VY (R176). -/
def execAndReg (x y : RegIx) (s : State) : Result :=
  .next (advance (some (encode (.andReg x y))) s (s.setReg x (s.reg x &&& s.reg y)))

/-- XOR VX, VY (R177). -/
def execXorReg (x y : RegIx) (s : State) : Result :=
  .next (advance (some (encode (.xorReg x y))) s (s.setReg x (s.reg x ^^^ s.reg y)))

/-- The write order of ADD, SUB and SUBN: both operands are read before, the result goes to V[X], and VF is written
last (R183). -/
def State.setResultThenFlag (s : State) (x : RegIx) (result flag : Byte) : State :=
  (s.setReg x result).setReg vf flag

/-- ADD VX, VY (R178). -/
def execAddReg (x y : RegIx) (s : State) : Result :=
  .next (advance (some (encode (.addReg x y))) s
    (s.setResultThenFlag x (s.reg x + s.reg y) (carryFlag (s.reg x) (s.reg y))))

/-- SUB VX, VY (R179). -/
def execSubReg (x y : RegIx) (s : State) : Result :=
  .next (advance (some (encode (.subReg x y))) s
    (s.setResultThenFlag x (s.reg x - s.reg y) (notBorrowFlag (s.reg x) (s.reg y))))

/-- SUBN VX, VY (R181). -/
def execSubnReg (x y : RegIx) (s : State) : Result :=
  .next (advance (some (encode (.subnReg x y))) s
    (s.setResultThenFlag x (s.reg y - s.reg x) (notBorrowFlag (s.reg y) (s.reg x))))

/-- SHR on V[X] in place: the flag first, then V[X] read again and shifted (R180, R184). -/
def State.shiftRight (s : State) (x : RegIx) : State :=
  let s1 := s.setReg vf (shrFlag (s.reg x))
  s1.setReg x (s1.reg x >>> 1)

/-- SHL on V[X] in place: the flag first, then V[X] read again and shifted (R182, R184). -/
def State.shiftLeft (s : State) (x : RegIx) : State :=
  let s1 := s.setReg vf (shlFlag (s.reg x))
  s1.setReg x (s1.reg x <<< 1)

/-- SHR VX, VY (R180); Y is ignored. -/
def execShr (x y : RegIx) (s : State) : Result :=
  .next (advance (some (encode (.shr x y))) s (s.shiftRight x))

/-- SHL VX, VY (R182); Y is ignored. -/
def execShl (x y : RegIx) (s : State) : Result :=
  .next (advance (some (encode (.shl x y))) s (s.shiftLeft x))

/-- LD I, NNN (R185): the value is not checked here. -/
def execLdI (nnn : Imm12) (s : State) : Result :=
  .next (advance (some (encode (.ldI nnn))) s (s.setI (nnn.setWidth 16)))

/-- RND with the byte `r` drawn (R186). -/
def State.setRandom (s : State) (x : RegIx) (nn r : Byte) : State := (s.nextDraw).setReg x (r &&& nn)

/-- RND VX, NN (R186): the byte is the next free draw (R281). -/
def execRnd (x : RegIx) (nn : Byte) (s : State) : Result :=
  .next (advance (some (encode (.rnd x nn))) s (s.setRandom x nn (Config.rngByte s.draws)))

end Sys2Proof.Machine
end

