-- ==== Sys2Proof/Machine/ControlFlow.lean ====
section
/-! DEFINITION. The meanings of families 0, 1, 2 and B (spec/41_control_flow.md). Each is phase (d) of the loop from a
state `s` at its start, once the word is fetched and decoded. -/

namespace Sys2Proof.Machine

/-- CLS (R131). -/
def execCls (s : State) : Result := .next (advance (some (encode .cls)) s s.clearDisplay)

/-- RET (R132): the popped address is then advanced by one instruction width. -/
def execRet (s : State) : Result := .next (tryAdvance (some (encode .ret)) s s.popPc)

/-- JP NNN (R133). -/
def execJp (nnn : Imm12) (s : State) : Result := .next (writePc (some (encode (.jp nnn))) s s nnn.toNat)

/-- CALL NNN (R134): the pushed address is the CALL's own; StackOverflow comes before the target's check (R255). -/
def callState (nnn : Imm12) (s : State) : State :=
  match s.push s.pc with
  | .error r => raise (some (encode (.call nnn))) s s r
  | .ok s1 => writePc (some (encode (.call nnn))) s s1 nnn.toNat

/-- CALL NNN (R134). -/
def execCall (nnn : Imm12) (s : State) : Result := .next (callState nnn s)

/-- JP V0, NNN (R136). -/
def execJpV0 (nnn : Imm12) (s : State) : Result :=
  .next (writePc (some (encode (.jpV0 nnn))) s s (indexedTarget nnn (s.reg 0)))

end Sys2Proof.Machine
end

