-- ==== Sys2Proof/Machine/Draw.lean ====
section
/-! DEFINITION. The meaning of family D (spec/44_draw.md). -/

namespace Sys2Proof.Machine

/-- The draw of the rows at the position in V[X] and V[Y], both read before VF is written (R200, R203, R205). -/
def State.drawRows (s : State) (x y : RegIx) (rows : List Byte) : State :=
  let d := drawSprite s.fb (s.reg x).toNat (s.reg y).toNat (unpack rows)
  (s.setFb d.1).setReg vf (flagByte d.2)

/-- DXYN for a GLYPH_BASE and a FONT: all rows are read before the display is called (R200, R201). -/
def State.drawWith (glyphBase : Nat) (font : Font) (s : State) (x y : RegIx) (n : Fin 16) : Except Raised State :=
  match spriteRows glyphBase font s.mem s.iAddr n.val with
  | .error r => .error r
  | .ok rows => .ok (s.drawRows x y rows)

/-- DRW VX, VY, N (R200). -/
def execDrw (x y : RegIx) (n : Fin 16) (s : State) : Result :=
  .next (tryAdvance (some (encode (.drw x y n))) s (State.drawWith Config.glyphBase Config.font s x y n))

end Sys2Proof.Machine
end

