-- ==== Sys2Proof/Machine/Misc.lean ====
section
/-! DEFINITION. The meanings of family F: keypad wait, timers, I and memory (spec/45_misc_fx.md). -/

namespace Sys2Proof.Machine

/-- LD VX, DT (R221). -/
def execLdVxDt (x : RegIx) (s : State) : Result :=
  .next (advance (some (encode (.ldVxDt x))) s (s.setReg x s.dt))

/-- LD VX, K (R222): the block waits, and the PC stays; `resumeKey` is the rest of the instruction. -/
def execLdVxK (x : RegIx) (s : State) : Result := .next (s.setRun (.waitingKey x))

/-- The resumption of FX0A when key `k` is delivered: `V[x] <- k`, `run <- Running`, the advance (R113, R222). -/
def resumeKey (x : RegIx) (k : Fin 16) (s : State) : State :=
  advance (some (encode (.ldVxK x))) s ((s.setReg x (BitVec.ofNat 8 k.val)).setRun .running)

/-- LD DT, VX (R223). -/
def execLdDtVx (x : RegIx) (s : State) : Result :=
  .next (advance (some (encode (.ldDtVx x))) s (s.setDt (s.reg x)))

/-- LD ST, VX (R224). -/
def execLdStVx (x : RegIx) (s : State) : Result :=
  .next (advance (some (encode (.ldStVx x))) s (s.setSt (s.reg x)))

/-- ADD I, VX (R225): modulo 2^16, no flag. -/
def execAddI (x : RegIx) (s : State) : Result :=
  .next (advance (some (encode (.addI x))) s (s.setI (s.i + (s.reg x).setWidth 16)))

/-- FX29 for a GLYPH_BASE (R226). -/
def State.pointAtGlyph (glyphBase : Nat) (s : State) (x : RegIx) : Except Raised State :=
  match glyphAddress glyphBase (s.reg x) with
  | .error r => .error r
  | .ok w => .ok (s.setI w)

/-- LD F, VX (R226). -/
def execLdF (x : RegIx) (s : State) : Result :=
  .next (tryAdvance (some (encode (.ldF x))) s (State.pointAtGlyph Config.glyphBase s x))

/-- Bytes stored from the address I on (R227, R228). -/
def State.storeAtI (s : State) (bytes : List Byte) : Except Raised State :=
  match writeBytes s.mem s.iAddr bytes with
  | .error r => .error r
  | .ok m => .ok (s.setMem m)

/-- LD B, VX (R227): three consecutive addresses; I is unchanged. -/
def execLdB (x : RegIx) (s : State) : Result :=
  .next (tryAdvance (some (encode (.ldB x))) s (s.storeAtI (decimalDigits (s.reg x))))

/-- FX55: the stores, then the advance of I (R228). -/
def State.storeRegsAtI (s : State) (x : RegIx) : Except Raised State :=
  match s.storeAtI (s.regsUpTo x) with
  | .error r => .error r
  | .ok s1 => .ok (s1.advanceI x)

/-- LD [I], VX (R228). -/
def execStoreRegs (x : RegIx) (s : State) : Result :=
  .next (tryAdvance (some (encode (.storeRegs x))) s (s.storeRegsAtI x))

/-- FX65: the loads, then the advance of I (R229). -/
def State.loadRegsAtI (s : State) (x : RegIx) : Except Raised State :=
  match readBytes s.mem s.iAddr (x.val + 1) with
  | .error r => .error r
  | .ok bytes => .ok ((s.setRegs (putRegs s.v 0 bytes)).advanceI x)

/-- LD VX, [I] (R229). -/
def execLoadRegs (x : RegIx) (s : State) : Result :=
  .next (tryAdvance (some (encode (.loadRegs x))) s (s.loadRegsAtI x))

end Sys2Proof.Machine
end

