-- ==== Sys2Proof/Machine/Skip.lean ====
section
/-! DEFINITION. The meanings of the conditional skips, families 3, 4, 5, 9 and E (spec/42_conditional_skip.md). -/

namespace Sys2Proof.Machine

/-- SE VX, NN (R151). -/
def execSeImm (x : RegIx) (nn : Byte) (s : State) : Result :=
  .next (advance (some (encode (.seImm x nn))) s (s.requestSkip (s.reg x == nn)))

/-- SNE VX, NN (R152). -/
def execSneImm (x : RegIx) (nn : Byte) (s : State) : Result :=
  .next (advance (some (encode (.sneImm x nn))) s (s.requestSkip (s.reg x != nn)))

/-- SE VX, VY (R153). -/
def execSeReg (x y : RegIx) (s : State) : Result :=
  .next (advance (some (encode (.seReg x y))) s (s.requestSkip (s.reg x == s.reg y)))

/-- SNE VX, VY (R154). -/
def execSneReg (x y : RegIx) (s : State) : Result :=
  .next (advance (some (encode (.sneReg x y))) s (s.requestSkip (s.reg x != s.reg y)))

/-- The key test of SKP and SKNP: the check, then a skip if the key is down (R156, R158). -/
def State.skipIfDown (s : State) (x : RegIx) : Except Raised State :=
  match keyCheck (s.reg x) with
  | .error r => .error r
  | .ok k => .ok (s.requestSkip (s.isDown k))

/-- SKP VX (R156). -/
def execSkp (x : RegIx) (s : State) : Result :=
  .next (tryAdvance (some (encode (.skp x))) s (s.skipIfDown x))

/-- SKNP VX (R157): the same test as SKP, "is key down", a defect the spec preserves (spec/90_conflicts.md C9). -/
def execSknp (x : RegIx) (s : State) : Result :=
  .next (tryAdvance (some (encode (.sknp x))) s (s.skipIfDown x))

end Sys2Proof.Machine
end

