-- ==== Sys2Proof/Machine/Loop.lean ====
section
/-! DEFINITION. The loop around the instructions: boot, the timer phase, the poll, the fetch, the pending skip and the
key wait (spec/40_interpreter_loop.md R100 to R113, spec/60_exceptions.md R270 to R280, spec/70_reset_and_hazards.md
R292). -/

namespace Sys2Proof.Machine

/-! ## Boot -/

/-- The start of the loop (R292): the canvas is established at startup (R277), and `load` is accepted no more. It does
nothing in a loop that runs. -/
def State.startLoop (s : State) : State :=
  { s with extents := if s.started then s.extents else some (Config.displayW, Config.displayH), started := true }

/-- Boot up to the start of the loop: reset, `set_extents(64, 32)`, then the load (R292). -/
def boot (img : List Byte) : Result :=
  (State.reset.setExtents Config.displayW Config.displayH).load img

/-! ## Phases (a) and (b): the timer synchronizer -/

/-- A timer after `t` ticks, each of which takes 1 from a value that is not 0 (R270). -/
def timerAfter (v : Byte) (t : Nat) : Byte := BitVec.ofNat 8 (v.toNat - t)

/-- How many times the loop `while acc >= TICK` of R270 runs from the value `q`: `floor(q / TICK)`. DEDUCED: log
entry 10. -/
def ticksIn (q : Rat) : Nat := (q * Config.tickHz).floor.toNat

/-- `TimerPhase()` when `Clock.elapsed()` answers `delta` (R270). -/
def State.timersAdvance (s : State) (delta : Rat) : State :=
  { s with
    dt := timerAfter s.dt (ticksIn (s.acc + delta))
    st := timerAfter s.st (ticksIn (s.acc + delta))
    acc := s.acc + delta - (ticksIn (s.acc + delta) : Rat) * Config.tick }

/-- The seconds blocked in FX0A that a timer phase counts: all of them, or none (R273). -/
def creditedWait (credited : Bool) (blocked : Rat) : Rat := if credited then blocked else 0

/-- The time a timer phase counts: the clock's answer, and the wait before it where that is credited (R273, R282). -/
def State.elapsed (s : State) : Rat :=
  (Config.clockElapsed s.draws : Rat) + creditedWait Config.waitTimeCredited s.blocked

/-- The wait is accounted for, once a timer phase has run. -/
def State.clearBlocked (s : State) : State := { s with blocked := 0 }

/-- Phases (a) and (b): `TimerPhase()` with the next draw of the clock (R270). -/
def State.timerPhase (s : State) : State := ((s.timersAdvance s.elapsed).clearBlocked).nextDraw

/-! ## Phase (c): the poll -/

/-- `keys <- snapshot` (R279). -/
def State.setKeys (s : State) (snapshot : BitVec 16) : State := { s with keys := snapshot }

/-- Phase (c): `keys <- Input.poll()`, the next draw (R100, R102). -/
def State.pollInput (s : State) : State := (s.setKeys (Config.pollKeys s.draws)).nextDraw

/-- Everything an iteration does before phase (d) (R100). -/
def State.beforePhaseD (s : State) : State := s.startLoop.timerPhase.pollInput

/-! ## Phase (d) around the handlers -/

/-- The fetch: the byte at PC is the high byte, the one after it the low byte (R58, R103). -/
def fetch (s : State) : Except Raised Word :=
  match memRead s.mem s.pc.toNat with
  | .error r => .error r
  | .ok hi =>
    match memRead s.mem (s.pc.toNat + 1) with
    | .error r => .error r
    | .ok lo => .ok (wordOfBytes hi lo)

/-- A fault of the fetch itself: the record holds no word (R253). -/
def raiseFetch (s : State) (r : Raised) : State := raise none s s r

/-- Executing an illegal word raises `InvalidOperand(op)` (R86, R250). -/
def raiseIllegal (op : Word) (s : State) : State := raise (some op) s s ⟨.invalidOperand, .word op⟩

/-- `skip <- skip - 1` (R110). -/
def State.decSkip (s : State) : State := { s with skip := s.skip - 1 }

/-- `ConsumeSkip()`: the PC advances and nothing is fetched; the record of its fault holds no word (R110, R253). -/
def consumeSkip (s : State) : State := advance none s s.decSkip

/-! ## The key wait -/

/-- The time that passes while the block waits, at the next draw of the clock (R273). -/
def State.passWait (s : State) : State :=
  ({ s with blocked := s.blocked + (Config.clockElapsed s.draws : Rat) }).nextDraw

/-- A step in `WaitingKey(x)`: time passes, and the input contract delivers a key or does not (R113, R280). No tick, no
poll and no fetch happen. -/
def waitStep (x : RegIx) (s : State) : State :=
  match Config.keyEvent s.passWait.draws with
  | none => s.passWait.nextDraw
  | some k => resumeKey x k s.passWait.nextDraw

end Sys2Proof.Machine
end

