-- ==== Sys2Proof/Machine/Step.lean ====
section
/-! DEFINITION. One step of the machine: one loop iteration, one moment of a key wait, or nothing in a halted block
(spec/40_interpreter_loop.md R100, R113 to R115). -/

namespace Sys2Proof.Machine

/-- Phase (d): one pending skip or one instruction (R100). -/
def phaseD (s : State) : Host.Outcome State Fault Refusal :=
  if 0 < s.skip then .next (consumeSkip s)
  else
    match fetch s with
    | .error r => .next (raiseFetch s r)
    | .ok op =>
      match decodeWord op with
      | .error _ => .next (raiseIllegal op s)
      | .ok i => exec i s

/-- One step (R100, R115). Phase (e) changes no state (R108). -/
def step (s : State) : Host.Outcome State Fault Refusal :=
  match s.run with
  | .running => phaseD s.beforePhaseD
  | .waitingKey x => .next (waitStep x s)
  | .halted _ => .fault .halted

/-- The PC when both bytes of an instruction there are in the window, else BASE. -/
def fetchablePc (pc : Word) : Word :=
  if InWindow pc.toNat ∧ InWindow (pc.toNat + 1) then pc else BitVec.ofNat 16 Config.base

/-- The state with an instruction, numbered as spec/opcode_table.json numbers its bits, stored where the next step
fetches: at the PC, the high byte first (R58). The block then runs and no skip is pending, so that the next step is the
iteration that executes it. It stands for the load of R62 (log entry 12). -/
def State.withFetchWord (s : State) (nbits w : Nat) : State :=
  { s with
    pc := fetchablePc s.pc
    run := .running
    skip := 0
    mem := (s.mem.write (fetchablePc s.pc).toNat (highByte (tableWord nbits w))).write
      ((fetchablePc s.pc).toNat + 1) (lowByte (tableWord nbits w)) }

end Sys2Proof.Machine
end

