-- ==== Sys2Proof/Safety.lean ====
section
/-! DEFINITION. What statements speak of: the invariant of the machine, the words of spec/30_encoding.md R90, the two ways an
instruction can end, the sprite as a set of pixels, and which state each instruction may change. -/

namespace Sys2Proof.Machine

/-! ## The invariant -/

/-- Every live stack entry is an address of the window: it was pushed from a valid PC (spec/41_control_flow.md R132). -/
def LiveEntriesInWindow (s : State) : Prop :=
  ∀ k : Fin 16, k.val < s.sp.val → InWindow (s.stack.get k).toNat

/-- The invariant of the machine: memory in canonical form, the PC in the window (R29), the pending-skip counter 0 or 1
between iterations (R35) and 0 in a key wait, the accumulator below one tick (R36), the time waited not negative, and
the live stack entries in the window (R132). -/
structure MachineInv (s : State) : Prop where
  memory : s.mem.wf = true
  pc : InWindow s.pc.toNat
  skip : s.skip ≤ 1
  waiting : ∀ x, s.run = .waitingKey x → s.skip = 0
  accNonneg : 0 ≤ s.acc
  accBelowTick : s.acc < Config.tick
  blocked : 0 ≤ s.blocked
  stack : LiveEntriesInWindow s

/-! ## Words by R90 -/

/-- `match | (X << 8) | NN` (R90). -/
def fieldsXNN (m : Word) (x : RegIx) (nn : Byte) : Word := m ||| (BitVec.ofNat 16 x.val <<< 8) ||| nn.setWidth 16

/-- `match | (X << 8) | (Y << 4) | N` (R90). -/
def fieldsXYN (m : Word) (x y n : Fin 16) : Word :=
  m ||| (BitVec.ofNat 16 x.val <<< 8) ||| (BitVec.ofNat 16 y.val <<< 4) ||| BitVec.ofNat 16 n.val

/-- `match | NNN` (R90). -/
def fieldsNNN (m : Word) (nnn : Imm12) : Word := m ||| nnn.setWidth 16

/-- `match | (X << 8)` (R90). -/
def fieldsX (m : Word) (x : RegIx) : Word := m ||| (BitVec.ofNat 16 x.val <<< 8)

/-! ## How an instruction ends -/

/-- The PC can advance past an instruction at `s`'s PC (R105, R107). -/
abbrev CanAdvance (s : State) : Prop := InWindow (s.pc.toNat + 2)

/-- The state a fatal error leaves when no external contract was called: the state at the start of phase (d), halted, with
the record of R253. -/
def haltedAt (s : State) (i : Instr) (kind : FaultKind) (info : FaultInfo) : State :=
  { s with run := .halted ⟨kind, s.pc, some (encode i), info⟩ }

/-- The instruction `i` from `s` completes with the effect `t`, the PC advanced by 2, whenever the PC can advance; else it
faults on the advance (R105, R107), and only what was asked of the external contracts remains (R254). -/
def CompletesOrFaultsOnAdvance (i : Instr) (s t : State) : Prop :=
  (CanAdvance s → exec i s = .next { t with pc := s.pc + 2 }) ∧
  (¬ CanAdvance s → exec i s = .next
    { haltedAt s i .invalidAddress (.address (s.pc.toNat + 2)) with fb := t.fb, draws := t.draws })

/-! ## Sprites as sets of pixels -/

/-- The pixel `(px, py)` lies under a set bit of the sprite whose top left corner is at `(x, y)`: the row and the column are
counted modulo the canvas size, and column `c` is bit `7 - c` of its row (R202, R278). -/
def spriteCovers (rows : List Byte) (x y px py : Nat) : Bool :=
  let r := (py + 32 - y % 32) % 32
  let c := (px + 64 - x % 64) % 64
  decide (r < rows.length) && decide (c < 8) && (rows.getD r 0).getLsbD (7 - c)

/-- A draw of `rows` by the instruction `i` from `s` at `(x, y)`: the pixels under the sprite are inverted and no others, VF
is 1 exactly when one of them was set before, and nothing else changes but the PC (R200, R203, R206, R278). -/
def DrawsSprite (i : Instr) (s : State) (rows : List Byte) (x y : Nat) : Prop :=
  ∃ (fb : Framebuffer) (collided : Bool),
    (∀ px < 64, ∀ py < 32, pixel fb px py = (pixel s.fb px py ^^ spriteCovers rows x y px py)) ∧
    (collided = true ↔ ∃ px < 64, ∃ py < 32, spriteCovers rows x y px py = true ∧ pixel s.fb px py = true) ∧
    CompletesOrFaultsOnAdvance i s { s with fb := fb, v := s.v.set 15 (if collided then 1 else 0) }

/-! ## Which state an instruction may change -/

/-- The general registers an instruction writes, VF as a flag included (spec/10_state.md R23). FX0A writes its register at the
resumption, not here. -/
def writtenRegs : Instr → List RegIx
  | .cls | .ret | .jp _ | .call _ | .jpV0 _ => []
  | .seImm _ _ | .sneImm _ _ | .seReg _ _ | .sneReg _ _ | .skp _ | .sknp _ => []
  | .ldImm x _ | .addImm x _ | .rnd x _ => [x]
  | .ldReg x _ | .orReg x _ | .andReg x _ | .xorReg x _ => [x]
  | .addReg x _ | .subReg x _ | .subnReg x _ | .shr x _ | .shl x _ => [x, 15]
  | .ldI _ | .addI _ | .ldF _ => []
  | .drw _ _ _ => [15]
  | .ldVxDt x => [x]
  | .ldVxK _ | .ldDtVx _ | .ldStVx _ | .ldB _ | .storeRegs _ => []
  | .loadRegs x => (List.finRange 16).filter fun r => r.val ≤ x.val

/-- Every general register but those of the list holds what it held. -/
def RegsSameExcept (s t : State) (ds : List RegIx) : Prop := ∀ r, r ∉ ds → t.reg r = s.reg r

/-- How many bytes an instruction stores from the address I on (spec/20_memory.md R59). -/
def storedBytes : Instr → Nat
  | .ldB _ => 3
  | .storeRegs x => x.val + 1
  | .cls | .ret | .jp _ | .call _ | .jpV0 _ => 0
  | .seImm _ _ | .sneImm _ _ | .seReg _ _ | .sneReg _ _ | .skp _ | .sknp _ => 0
  | .ldImm _ _ | .addImm _ _ | .rnd _ _ => 0
  | .ldReg _ _ | .orReg _ _ | .andReg _ _ | .xorReg _ _ => 0
  | .addReg _ _ | .subReg _ _ | .subnReg _ _ | .shr _ _ | .shl _ _ => 0
  | .ldI _ | .addI _ | .ldF _ | .drw _ _ _ => 0
  | .ldVxDt _ | .ldVxK _ | .ldDtVx _ | .ldStVx _ | .loadRegs _ => 0

/-- The instructions that write I (R26). -/
def writesI : Instr → Bool
  | .ldI _ | .addI _ | .ldF _ | .storeRegs _ | .loadRegs _ => true
  | .cls | .ret | .jp _ | .call _ | .jpV0 _ => false
  | .seImm _ _ | .sneImm _ _ | .seReg _ _ | .sneReg _ _ | .skp _ | .sknp _ => false
  | .ldImm _ _ | .addImm _ _ | .rnd _ _ => false
  | .ldReg _ _ | .orReg _ _ | .andReg _ _ | .xorReg _ _ => false
  | .addReg _ _ | .subReg _ _ | .subnReg _ _ | .shr _ _ | .shl _ _ => false
  | .drw _ _ _ | .ldVxDt _ | .ldVxK _ | .ldDtVx _ | .ldStVx _ | .ldB _ => false

/-- The conditional skips, the only instructions that write the pending-skip counter (R150). -/
def isSkip : Instr → Bool
  | .seImm _ _ | .sneImm _ _ | .seReg _ _ | .sneReg _ _ | .skp _ | .sknp _ => true
  | .cls | .ret | .jp _ | .call _ | .jpV0 _ => false
  | .ldImm _ _ | .addImm _ _ | .rnd _ _ => false
  | .ldReg _ _ | .orReg _ _ | .andReg _ _ | .xorReg _ _ => false
  | .addReg _ _ | .subReg _ _ | .subnReg _ _ | .shr _ _ | .shl _ _ => false
  | .ldI _ | .addI _ | .ldF _ | .drw _ _ _ => false
  | .ldVxDt _ | .ldVxK _ | .ldDtVx _ | .ldStVx _ | .ldB _ | .storeRegs _ | .loadRegs _ => false

/-- The condition under which a conditional skip requests its skip, in the state at the start of phase (d)
(spec/42_conditional_skip.md R151 to R158). None for a key number above 15, which raises KeyRange, and for an instruction that
is no conditional skip. -/
def skipCondition : Instr → State → Option Bool
  | .seImm x nn, s => some (decide (s.reg x = nn))
  | .sneImm x nn, s => some (decide (s.reg x ≠ nn))
  | .seReg x y, s => some (decide (s.reg x = s.reg y))
  | .sneReg x y, s => some (decide (s.reg x ≠ s.reg y))
  | .skp x, s | .sknp x, s => if (s.reg x).toNat ≤ 15 then some (s.keys.getLsbD (s.reg x).toNat) else none
  | .cls, _ | .ret, _ | .jp _, _ | .call _, _ | .jpV0 _, _ => none
  | .ldImm _ _, _ | .addImm _ _, _ | .rnd _ _, _ => none
  | .ldReg _ _, _ | .orReg _ _, _ | .andReg _ _, _ | .xorReg _ _, _ => none
  | .addReg _ _, _ | .subReg _ _, _ | .subnReg _ _, _ | .shr _ _, _ | .shl _ _, _ => none
  | .ldI _, _ | .addI _, _ | .ldF _, _ | .drw _ _ _, _ => none
  | .ldVxDt _, _ | .ldVxK _, _ | .ldDtVx _, _ | .ldStVx _, _ | .ldB _, _ | .storeRegs _, _ | .loadRegs _, _ => none

/-- The kinds an instruction can raise (spec/60_exceptions.md R251). FX0A raises its own at the resumption. -/
def raisableKinds : Instr → List FaultKind
  | .cls => [.invalidAddress]
  | .ret => [.stackUnderflow, .invalidAddress]
  | .jp _ | .jpV0 _ => [.invalidAddress]
  | .call _ => [.stackOverflow, .invalidAddress]
  | .seImm _ _ | .sneImm _ _ | .seReg _ _ | .sneReg _ _ => [.invalidAddress]
  | .skp _ | .sknp _ => [.keyRange, .invalidAddress]
  | .ldImm _ _ | .addImm _ _ | .rnd _ _ => [.invalidAddress]
  | .ldReg _ _ | .orReg _ _ | .andReg _ _ | .xorReg _ _ => [.invalidAddress]
  | .addReg _ _ | .subReg _ _ | .subnReg _ _ | .shr _ _ | .shl _ _ => [.invalidAddress]
  | .ldI _ | .addI _ => [.invalidAddress]
  | .ldF _ => [.glyphRange, .invalidAddress]
  | .drw _ _ _ => [.invalidAddress, .glyphRange]
  | .ldVxDt _ | .ldDtVx _ | .ldStVx _ => [.invalidAddress]
  | .ldVxK _ => []
  | .ldB _ | .storeRegs _ | .loadRegs _ => [.invalidAddress]

end Sys2Proof.Machine
end

