-- ==== Sys2Proof/Certificates/Slice0/Obligations.lean ====
section
/-! DEFINITION. The statements for the provers. Each says which rule of spec/ it formalises, or what it is derived from. -/

open Sys2Proof Sys2Proof.Machine

/-! ## Reset, the invariant and the loader -/

/-- R290: what reset leaves. The display's pixels are the host's `FB_INIT`. The model's own fields are not spoken of. -/
def Obligations.ResetLeavesTheSpecsValues : Prop :=
  (∀ x, State.reset.reg x = 0) ∧ State.reset.i = 0 ∧ State.reset.pc = 0x200 ∧ State.reset.sp = 0 ∧
  (∀ k, State.reset.stack.get k = 0) ∧ State.reset.dt = 0 ∧ State.reset.st = 0 ∧ State.reset.skip = 0 ∧
  State.reset.acc = 0 ∧ State.reset.keys = 0 ∧ State.reset.run = .running ∧
  (∀ a, State.reset.mem.read a = 0) ∧ State.reset.fb = Config.fbInit

/-- The invariant holds after reset. -/
def Obligations.ResetMeetsTheInvariant : Prop := MachineInv State.reset

/-- Every step keeps the invariant: R29 and R36; R35 and the window of the live stack entries, which the spec marks as derived;
the canonical form of memory and the sign of the time waited, which are the model's own (log entries 7 and 18). -/
def Obligations.EveryStepKeepsTheInvariant : Prop :=
  ∀ s t, MachineInv s → step s = .next t → MachineInv t

/-- R62: the image is copied from BASE on, cut off at the memory size, and the rest of memory keeps its value. The loaded
memory is in canonical form and the invariant is kept (the model's own form, log entry 18), so that a state with a program
loaded meets the premises of the statements about a step. The mark `started` is the model's own (log entry 11). -/
def Obligations.LoadCopiesTheImage : Prop :=
  ∀ (s : State) (img : List Byte), s.started = false → s.mem.wf = true →
    ∃ m, s.load img = .next { s with mem := m } ∧
      m.wf = true ∧ (MachineInv s → MachineInv { s with mem := m }) ∧
      (∀ k, (h : k < min img.length Config.memSize) → m.read (Config.base + k) = img[k]'(by omega)) ∧
      (∀ a, ¬ (Config.base ≤ a ∧ a < Config.base + min img.length Config.memSize) → m.read a = s.mem.read a)

/-- R285, R292: `load` is accepted only between reset and the first iteration, and the first iteration closes it. The mark
`started` that tells is the model's own (log entry 11). -/
def Obligations.LoadIsRefusedOnceTheLoopRuns : Prop :=
  (∀ s img, s.started = true → State.load s img = .refused .loadAfterStart) ∧
  (∀ s t, s.run = .running → step s = .next t → t.started = true)

/-! ## Encoding -/

/-- R81, R85, and R90, which the spec marks "[derived: from rule R81 and rule R85]": decoding the word of an instruction gives the instruction back, every operand at every value. -/
def Obligations.DecodeOfEncodeIsTheInstruction : Prop := ∀ i : Instr, decodeWord (encode i) = .ok i

/-- The other direction: a word that decodes to an instruction is that instruction's word. -/
def Obligations.EncodeOfDecodeIsTheWord : Prop := ∀ (w : Word) (i : Instr), decodeWord w = .ok i → encode i = w

/-- R85, R86: the decoder accepts exactly the words that match a row of the opcode map. -/
def Obligations.DecoderAcceptsExactlyTheOpcodeMap : Prop :=
  ∀ w : Word, (∃ i, decodeWord w = .ok i) ↔ wellFormedWord w = true

/-- R85: a word matches at most one row. -/
def Obligations.AWordMatchesAtMostOneRow : Prop :=
  ∀ w : Word, ∀ r ∈ opcodeRows, ∀ r' ∈ opcodeRows, r.hit w = true → r'.hit w = true → r = r'

/-- The illegal words, by family, as R86 lists them. -/
def Obligations.IllegalWordsAreTheListedOnes : Prop :=
  ∀ w : Word, wellFormedWord w = false ↔
    (n0 w = 0x0 ∧ w ≠ 0x00E0 ∧ w ≠ 0x00EE) ∨
    ((n0 w = 0x5 ∨ n0 w = 0x9) ∧ n3 w ≠ 0) ∨
    (n0 w = 0x8 ∧ n3 w ∈ [0x8, 0x9, 0xA, 0xB, 0xC, 0xD, 0xF]) ∨
    (n0 w = 0xE ∧ nnOf w ∉ [0x9E, 0xA1]) ∨
    (n0 w = 0xF ∧ nnOf w ∉ [0x07, 0x0A, 0x15, 0x18, 0x1E, 0x29, 0x33, 0x55, 0x65])

/-- Words written out from the patterns of R85, high byte first (R58): R90's three examples and at least one word of every
family decode to the instruction they stand for, and one illegal word of family 5 is refused. -/
def Obligations.SampleWordsDecode : Prop :=
  decodeBytes 0x73 0x10 = .ok (.addImm 3 0x10) ∧ decodeBytes 0xD1 0x25 = .ok (.drw 1 2 5) ∧
  decodeBytes 0xF4 0x55 = .ok (.storeRegs 4) ∧ decodeBytes 0x00 0xEE = .ok .ret ∧
  decodeBytes 0x12 0x34 = .ok (.jp 0x234) ∧ decodeBytes 0x83 0x46 = .ok (.shr 3 4) ∧
  decodeBytes 0xE4 0xA1 = .ok (.sknp 4) ∧ decodeBytes 0x51 0x31 = .error .family5 ∧
  decodeBytes 0x2A 0xBC = .ok (.call 0xABC) ∧ decodeBytes 0x32 0x05 = .ok (.seImm 2 0x05) ∧
  decodeBytes 0x42 0x06 = .ok (.sneImm 2 0x06) ∧ decodeBytes 0x51 0x30 = .ok (.seReg 1 3) ∧
  decodeBytes 0x6A 0x9C = .ok (.ldImm 10 0x9C) ∧ decodeBytes 0x91 0x30 = .ok (.sneReg 1 3) ∧
  decodeBytes 0xA1 0x23 = .ok (.ldI 0x123) ∧ decodeBytes 0xB3 0x00 = .ok (.jpV0 0x300) ∧
  decodeBytes 0xC1 0x0F = .ok (.rnd 1 0x0F)

/-! ## The loop -/

/-- R100, R58: when no skip is pending and the two bytes at the PC, the high one first, decode to an instruction, a step is
that instruction after phases (a) to (c). These touch the timers, the accumulator and the key snapshot of the block, and,
of the model's own, the draws (log entry 2), the time waited (log entry 7), the start mark and the canvas size (log entry
11), and nothing else. What DT, ST and the accumulator become is `TimerPhaseTurnsTimeIntoTicks`, and what the canvas size
becomes is `BootEstablishesTheCanvas`. -/
def Obligations.StepRunsTheDecodedInstruction : Prop :=
  (∀ (s : State) (i : Instr), s.run = .running → s.skip = 0 → InWindow s.pc.toNat → InWindow (s.pc.toNat + 1) →
    decodeBytes (s.mem.read s.pc.toNat) (s.mem.read (s.pc.toNat + 1)) = .ok i →
    step s = exec i s.beforePhaseD) ∧
  (∀ s : State, s.beforePhaseD =
    { s with dt := s.beforePhaseD.dt, st := s.beforePhaseD.st, acc := s.beforePhaseD.acc,
             keys := Config.pollKeys (s.draws + 1), draws := s.draws + 2,
             extents := s.beforePhaseD.extents, started := true, blocked := 0 })

/-- R103: a byte of the fetch outside the window raises InvalidAddress of its address, PC before PC + 1; the record holds no
word. Nothing but phases (a) to (c) has happened (R254). -/
def Obligations.FetchOutsideTheWindowHalts : Prop :=
  ∀ s : State, s.run = .running → s.skip = 0 →
    (¬ InWindow s.pc.toNat → step s = .next { s.beforePhaseD with
      run := .halted ⟨.invalidAddress, s.pc, none, .address s.pc.toNat⟩ }) ∧
    (InWindow s.pc.toNat → ¬ InWindow (s.pc.toNat + 1) → step s = .next { s.beforePhaseD with
      run := .halted ⟨.invalidAddress, s.pc, none, .address (s.pc.toNat + 1)⟩ })

/-- R86, R250: executing a word that matches no row raises InvalidOperand with the word and the PC, and changes nothing
else but by phases (a) to (c). -/
def Obligations.IllegalWordHalts : Prop :=
  ∀ (s : State) (w : Word), s.run = .running → s.skip = 0 → InWindow s.pc.toNat → InWindow (s.pc.toNat + 1) →
    w = wordOfBytes (s.mem.read s.pc.toNat) (s.mem.read (s.pc.toNat + 1)) → wellFormedWord w = false →
    step s = .next { s.beforePhaseD with run := .halted ⟨.invalidOperand, s.pc, some w, .word w⟩ }

/-- R110: a pending skip advances the PC by 2 and is decremented, whatever memory holds at the PC; only the advanced PC is
checked, and its fault holds no word. -/
def Obligations.PendingSkipIsConsumedUnread : Prop :=
  ∀ s : State, s.run = .running → 0 < s.skip →
    (CanAdvance s → step s = .next { s.beforePhaseD with pc := s.pc + 2, skip := s.skip - 1 }) ∧
    (¬ CanAdvance s → step s = .next { s.beforePhaseD with
      run := .halted ⟨.invalidAddress, s.pc, none, .address (s.pc.toNat + 2)⟩ })

/-- R111, which the spec marks "[derived: from rule R105 and rule R110]": a conditional skip that succeeds in an iteration at P
leaves PC = P + 2 and skip = 1, and the next iteration leaves PC = P + 4 and skip = 0 and executes nothing; one that fails
leaves PC = P + 2 and skip = 0, and the block runs. For all six conditional skips. -/
def Obligations.SkipTakesEffectOneIterationLate : Prop :=
  ∀ (s : State) (i : Instr), s.run = .running → s.skip = 0 → InWindow s.pc.toNat → InWindow (s.pc.toNat + 2) →
    decodeBytes (s.mem.read s.pc.toNat) (s.mem.read (s.pc.toNat + 1)) = .ok i →
    (skipCondition i s.beforePhaseD = some true → InWindow (s.pc.toNat + 4) → ∃ t u, step s = .next t ∧
      t.pc = s.pc + 2 ∧ t.skip = 1 ∧
      step t = .next u ∧ u.pc = s.pc + 4 ∧ u.skip = 0 ∧ u.run = .running ∧
      u.v = s.v ∧ u.i = s.i ∧ u.sp = s.sp ∧ u.stack = s.stack ∧ u.mem = s.mem ∧ u.fb = s.fb) ∧
    (skipCondition i s.beforePhaseD = some false →
      ∃ t, step s = .next t ∧ t.pc = s.pc + 2 ∧ t.skip = 0 ∧ t.run = .running)

/-- R135, which the spec marks "[derived: from rule R132 and rule R134]": CALL at P with a RET at its target: two iterations later the PC is P + 2 and SP is as before. -/
def Obligations.CallThenReturnLandsAfterTheCall : Prop :=
  ∀ (s : State) (nnn : Imm12), s.run = .running → s.skip = 0 → s.sp.val < 16 →
    InWindow s.pc.toNat → InWindow (s.pc.toNat + 2) → InWindow nnn.toNat → InWindow (nnn.toNat + 1) →
    decodeBytes (s.mem.read s.pc.toNat) (s.mem.read (s.pc.toNat + 1)) = .ok (.call nnn) →
    decodeBytes (s.mem.read nnn.toNat) (s.mem.read (nnn.toNat + 1)) = .ok .ret →
    ∃ t u, step s = .next t ∧ t.pc = nnn.setWidth 16 ∧ step t = .next u ∧ u.pc = s.pc + 2 ∧ u.sp = s.sp ∧
      u.v = s.v ∧ u.i = s.i ∧ u.mem = s.mem

/-- R114, R257: a halted block never steps. -/
def Obligations.HaltedBlockNeverSteps : Prop :=
  ∀ (s : State) (e : ErrRecord), s.run = .halted e → step s = .fault .halted

/-- R114: the block stops only when halted; in every other state a step answers a next state. That a fatal error is itself a
next state is log entry 3 (DEDUCED). That a block in a key wait answers one, with or without a key, is log entry 8
(DEDUCED): by R115 the resumption may never come, which is then a wait without end and no stop. -/
def Obligations.StepStopsOnlyWhenHalted : Prop :=
  ∀ s : State, (∃ t, step s = .next t) ∨ ∃ e, s.run = .halted e

/-- R106, R250: no step raises DecodeError or InvalidRegisterIndex. -/
def Obligations.UnreachableKindsAreNeverRaised : Prop :=
  ∀ (s t : State) (e : ErrRecord), step s = .next t → t.run = .halted e →
    e.kind ≠ .decodeError ∧ e.kind ≠ .invalidRegisterIndex

/-- R254: an instruction that faults leaves the core state of the start of phase (d), the PC at its own address and the
record with its address and word; only the display's pixels (CLS, DRW) and the draws taken (RND; the model's own count, log
entry 13) may differ. -/
def Obligations.FaultsArePrecise : Prop :=
  ∀ (i : Instr) (s t : State) (e : ErrRecord), s.run = .running → exec i s = .next t → t.run = .halted e →
    t = { s with run := .halted e, fb := t.fb, draws := t.draws } ∧ e.pc = s.pc ∧ e.op = some (encode i) ∧
    (t.fb ≠ s.fb → i = .cls ∨ ∃ x y n, i = .drw x y n) ∧ (t.draws ≠ s.draws → ∃ x nn, i = .rnd x nn)

/-- R251, which the spec marks "[derived: from the rules of 40_interpreter_loop.md to 45_misc_fx.md]": which instructions can
raise which kinds. -/
def Obligations.InstructionsRaiseOnlyTheirKinds : Prop :=
  ∀ (i : Instr) (s t : State) (e : ErrRecord), s.run = .running → exec i s = .next t → t.run = .halted e →
    e.kind ∈ raisableKinds i

/-! ## Control flow -/

/-- R131: CLS, on the display as R278's reference device (log entry 1). -/
def Obligations.ClsClearsTheDisplay : Prop :=
  encode .cls = 0x00E0 ∧ ∀ s : State, ∃ fb : Framebuffer,
    (∀ px < 64, ∀ py < 32, pixel fb px py = false) ∧ CompletesOrFaultsOnAdvance .cls s { s with fb := fb }

/-- R132: RET. That a live entry is always an address of the window is part of `MachineInv`. -/
def Obligations.RetPopsAndThenAdvances : Prop :=
  encode .ret = 0x00EE ∧
  (∀ s : State, s.sp = 0 → exec .ret s = .next (haltedAt s .ret .stackUnderflow .none)) ∧
  (∀ (s : State) (k : Fin 16), s.sp = k.succ →
    (InWindow ((s.stack.get k).toNat + 2) →
      exec .ret s = .next { s with sp := k.castSucc, pc := s.stack.get k + 2 }) ∧
    (¬ InWindow ((s.stack.get k).toNat + 2) →
      exec .ret s = .next (haltedAt s .ret .invalidAddress (.address ((s.stack.get k).toNat + 2)))))

/-- R133: JP NNN. -/
def Obligations.JpJumpsToItsTarget : Prop :=
  ∀ (nnn : Imm12) (s : State), encode (.jp nnn) = fieldsNNN 0x1000 nnn ∧
    (InWindow nnn.toNat → exec (.jp nnn) s = .next { s with pc := nnn.setWidth 16 }) ∧
    (¬ InWindow nnn.toNat → exec (.jp nnn) s = .next (haltedAt s (.jp nnn) .invalidAddress (.address nnn.toNat)))

/-- R134: CALL NNN. -/
def Obligations.CallPushesItsOwnAddress : Prop :=
  ∀ (nnn : Imm12) (s : State), encode (.call nnn) = fieldsNNN 0x2000 nnn ∧
    (s.sp = 16 → exec (.call nnn) s = .next (haltedAt s (.call nnn) .stackOverflow .none)) ∧
    (∀ k : Fin 16, s.sp = k.castSucc →
      (InWindow nnn.toNat → exec (.call nnn) s =
        .next { s with stack := s.stack.set k.val s.pc, sp := k.succ, pc := nnn.setWidth 16 }) ∧
      (¬ InWindow nnn.toNat →
        exec (.call nnn) s = .next (haltedAt s (.call nnn) .invalidAddress (.address nnn.toNat))))

/-- R136: JP V0, NNN. -/
def Obligations.JpV0WrapsAtTwelveBits : Prop :=
  ∀ (nnn : Imm12) (s : State) (t : Nat), t = (nnn.toNat + (s.reg 0).toNat) % 0x1000 →
    encode (.jpV0 nnn) = fieldsNNN 0xB000 nnn ∧
    (InWindow t → exec (.jpV0 nnn) s = .next { s with pc := BitVec.ofNat 16 t }) ∧
    (¬ InWindow t → exec (.jpV0 nnn) s = .next (haltedAt s (.jpV0 nnn) .invalidAddress (.address t)))

/-! ## Conditional skips -/

/-- R150, R151, R152: SE VX, NN and SNE VX, NN. -/
def Obligations.ImmediateSkipsCompareARegister : Prop :=
  ∀ (x : RegIx) (nn : Byte) (s : State),
    encode (.seImm x nn) = fieldsXNN 0x3000 x nn ∧ encode (.sneImm x nn) = fieldsXNN 0x4000 x nn ∧
    CompletesOrFaultsOnAdvance (.seImm x nn) s { s with skip := if s.reg x = nn then s.skip + 1 else s.skip } ∧
    CompletesOrFaultsOnAdvance (.sneImm x nn) s { s with skip := if s.reg x ≠ nn then s.skip + 1 else s.skip }

/-- R150, R153, R154: SE VX, VY and SNE VX, VY; executing a word whose low nibble is not 0 raises InvalidOperand. -/
def Obligations.RegisterSkipsCompareTwoRegisters : Prop :=
  ∀ (x y : RegIx) (s : State),
    encode (.seReg x y) = fieldsXYN 0x5000 x y 0 ∧ encode (.sneReg x y) = fieldsXYN 0x9000 x y 0 ∧
    (∀ n w, n ≠ 0 → (w = fieldsXYN 0x5000 x y n ∨ w = fieldsXYN 0x9000 x y n) →
      s.run = .running → s.skip = 0 → fetch s = .ok w →
      step s = .next { s.beforePhaseD with run := .halted ⟨.invalidOperand, s.pc, some w, .word w⟩ }) ∧
    CompletesOrFaultsOnAdvance (.seReg x y) s { s with skip := if s.reg x = s.reg y then s.skip + 1 else s.skip } ∧
    CompletesOrFaultsOnAdvance (.sneReg x y) s { s with skip := if s.reg x ≠ s.reg y then s.skip + 1 else s.skip }

/-- R156, R157, R158: SKP and SKNP make the same test, "is key down"; a register value above 15 raises KeyRange. -/
def Obligations.BothKeySkipsTestKeyDown : Prop :=
  ∀ (x : RegIx) (s : State),
    encode (.skp x) = fieldsX 0xE09E x ∧ encode (.sknp x) = fieldsX 0xE0A1 x ∧
    ((s.reg x).toNat ≤ 15 →
      CompletesOrFaultsOnAdvance (.skp x) s
        { s with skip := if s.keys.getLsbD (s.reg x).toNat then s.skip + 1 else s.skip } ∧
      CompletesOrFaultsOnAdvance (.sknp x) s
        { s with skip := if s.keys.getLsbD (s.reg x).toNat then s.skip + 1 else s.skip }) ∧
    (15 < (s.reg x).toNat →
      exec (.skp x) s = .next (haltedAt s (.skp x) .keyRange (.value (s.reg x))) ∧
      exec (.sknp x) s = .next (haltedAt s (.sknp x) .keyRange (.value (s.reg x))))

/-! ## Data and ALU -/

/-- R170, R171: LD VX, NN and ADD VX, NN, which sets no flag. -/
def Obligations.ImmediateLoadAndAdd : Prop :=
  ∀ (x : RegIx) (nn : Byte) (s : State),
    encode (.ldImm x nn) = fieldsXNN 0x6000 x nn ∧ encode (.addImm x nn) = fieldsXNN 0x7000 x nn ∧
    CompletesOrFaultsOnAdvance (.ldImm x nn) s { s with v := s.v.set x.val nn } ∧
    CompletesOrFaultsOnAdvance (.addImm x nn) s
      { s with v := s.v.set x.val (BitVec.ofNat 8 (((s.reg x).toNat + nn.toNat) % 256)) }

/-- R174 to R177: assign, OR, AND and XOR write V[X] alone; VF only when it is V[X]. -/
def Obligations.AssignAndLogicWriteOnlyVx : Prop :=
  ∀ (x y : RegIx) (s : State),
    encode (.ldReg x y) = fieldsXYN 0x8000 x y 0 ∧ encode (.orReg x y) = fieldsXYN 0x8001 x y 0 ∧
    encode (.andReg x y) = fieldsXYN 0x8002 x y 0 ∧ encode (.xorReg x y) = fieldsXYN 0x8003 x y 0 ∧
    CompletesOrFaultsOnAdvance (.ldReg x y) s { s with v := s.v.set x.val (s.reg y) } ∧
    CompletesOrFaultsOnAdvance (.orReg x y) s { s with v := s.v.set x.val (s.reg x ||| s.reg y) } ∧
    CompletesOrFaultsOnAdvance (.andReg x y) s { s with v := s.v.set x.val (s.reg x &&& s.reg y) } ∧
    CompletesOrFaultsOnAdvance (.xorReg x y) s { s with v := s.v.set x.val (s.reg x ^^^ s.reg y) }

/-- R178, R183: ADD VX, VY. Both operands are read first, the sum modulo 256 goes to V[X], and the carry to VF last. -/
def Obligations.AddSetsTheCarryLast : Prop :=
  ∀ (x y : RegIx) (s : State) (a b : Nat), a = (s.reg x).toNat → b = (s.reg y).toNat →
    encode (.addReg x y) = fieldsXYN 0x8004 x y 0 ∧
    CompletesOrFaultsOnAdvance (.addReg x y) s
      { s with v := (s.v.set x.val (BitVec.ofNat 8 ((a + b) % 256))).set 15 (if a + b > 255 then 1 else 0) }

/-- R179, R181, R183: SUB and SUBN. The flag is 1 only when the minuend is strictly greater, and is written last. -/
def Obligations.SubtractionsSetTheNotBorrowLast : Prop :=
  ∀ (x y : RegIx) (s : State) (a b : Nat), a = (s.reg x).toNat → b = (s.reg y).toNat →
    encode (.subReg x y) = fieldsXYN 0x8005 x y 0 ∧ encode (.subnReg x y) = fieldsXYN 0x8007 x y 0 ∧
    CompletesOrFaultsOnAdvance (.subReg x y) s
      { s with v := (s.v.set x.val (BitVec.ofNat 8 ((a + 256 - b) % 256))).set 15 (if a > b then 1 else 0) } ∧
    CompletesOrFaultsOnAdvance (.subnReg x y) s
      { s with v := (s.v.set x.val (BitVec.ofNat 8 ((b + 256 - a) % 256))).set 15 (if b > a then 1 else 0) }

/-- R180, R182, R184: the shifts work on V[X] in place and never read V[Y]. For X other than F, V[X] is shifted and VF is the
bit shifted out; for X = F, the flag itself is shifted, so that SHR leaves 0, and SHL 2 or 0. -/
def Obligations.ShiftsWriteTheFlagFirst : Prop :=
  ∀ (x y : RegIx) (s : State) (a : Nat), a = (s.reg x).toNat →
    encode (.shr x y) = fieldsXYN 0x8006 x y 0 ∧ encode (.shl x y) = fieldsXYN 0x800E x y 0 ∧
    (x ≠ 15 →
      CompletesOrFaultsOnAdvance (.shr x y) s
        { s with v := (s.v.set 15 (BitVec.ofNat 8 (a % 2))).set x.val (BitVec.ofNat 8 (a / 2)) } ∧
      CompletesOrFaultsOnAdvance (.shl x y) s
        { s with v := (s.v.set 15 (BitVec.ofNat 8 (a / 128))).set x.val (BitVec.ofNat 8 (2 * a % 256)) }) ∧
    (x = 15 →
      CompletesOrFaultsOnAdvance (.shr x y) s { s with v := s.v.set 15 0 } ∧
      CompletesOrFaultsOnAdvance (.shl x y) s { s with v := s.v.set 15 (if a ≥ 128 then 2 else 0) })

/-- R185, R225: LD I, NNN zero-extends, and ADD I, VX wraps at 16 bits; neither checks the result or sets a flag. -/
def Obligations.AddressRegisterLoadAndAdd : Prop :=
  ∀ (s : State),
    (∀ nnn : Imm12, encode (.ldI nnn) = fieldsNNN 0xA000 nnn ∧
      CompletesOrFaultsOnAdvance (.ldI nnn) s { s with i := BitVec.ofNat 16 nnn.toNat }) ∧
    (∀ x : RegIx, encode (.addI x) = fieldsX 0xF01E x ∧
      CompletesOrFaultsOnAdvance (.addI x) s
        { s with i := BitVec.ofNat 16 ((s.i.toNat + (s.reg x).toNat) % 0x10000) })

/-- R186: RND VX, NN writes the next free draw of the random source, masked by NN. The source is a constant with no body and
the index of its draw the model's own count (log entry 2), so the statement holds whatever the byte is. -/
def Obligations.RndMasksAFreeByte : Prop :=
  ∀ (x : RegIx) (nn : Byte) (s : State), encode (.rnd x nn) = fieldsXNN 0xC000 x nn ∧
    CompletesOrFaultsOnAdvance (.rnd x nn) s
      { s with v := s.v.set x.val (Config.rngByte s.draws &&& nn), draws := s.draws + 1 }

/-! ## Drawing -/

/-- R204: height 0 reads nothing, does not examine I, leaves the display as it is and clears VF. -/
def Obligations.DrawOfHeightZeroReadsNothing : Prop :=
  ∀ (x y : RegIx) (s : State), encode (.drw x y 0) = fieldsXYN 0xD000 x y 0 ∧
    CompletesOrFaultsOnAdvance (.drw x y 0) s { s with v := s.v.set 15 0 }

/-- R200, R201, R202: a draw from main memory, and its faults: I below BASE outside glyph space, and the first address
outside the window. A fault makes no display call. -/
def Obligations.DrawFromMemory : Prop :=
  ∀ (x y : RegIx) (n : Fin 16) (s : State), n ≠ 0 →
    encode (.drw x y n) = fieldsXYN 0xD000 x y n ∧
    ((∀ k < n.val, InWindow (s.i.toNat + k)) →
      DrawsSprite (.drw x y n) s ((List.range n.val).map fun k => s.mem.read (s.i.toNat + k))
        (s.reg x).toNat (s.reg y).toNat) ∧
    (∀ j < n.val, Config.base ≤ s.i.toNat → (∀ k < j, InWindow (s.i.toNat + k)) → ¬ InWindow (s.i.toNat + j) →
      exec (.drw x y n) s = .next (haltedAt s (.drw x y n) .invalidAddress (.address (s.i.toNat + j)))) ∧
    (s.i.toNat < Config.base → ¬ (Config.glyphBase ≤ s.i.toNat ∧ s.i.toNat < Config.glyphBase + 16) →
      exec (.drw x y n) s = .next (haltedAt s (.drw x y n) .invalidAddress (.address s.i.toNat)))

/-- R56, R201: a draw from glyph space takes the first N rows of the glyph, for N up to 5, and raises GlyphRange at row 5 for
a larger N. -/
def Obligations.DrawFromTheGlyphTable : Prop :=
  ∀ (x y : RegIx) (n : Fin 16) (s : State) (g : Fin 16), n ≠ 0 → s.i.toNat = Config.glyphBase + g.val →
    (n.val ≤ 5 →
      DrawsSprite (.drw x y n) s ((Config.font.get g).toList.take n.val) (s.reg x).toNat (s.reg y).toNat) ∧
    (5 < n.val → exec (.drw x y n) s = .next (haltedAt s (.drw x y n) .glyphRange (.glyph g.val 5)))

/-- R207, which the spec marks "[derived: from rule R200 and 60_exceptions.md rule R278]": the same sprite drawn twice at the same place restores the display. If the sprite has a set bit and no pixel under
it was set, the first draw reports no collision and the second does; an all-zero sprite reports none. -/
def Obligations.DrawingTwiceRestoresTheDisplay : Prop :=
  ∀ (x y : RegIx) (n : Fin 16) (s : State) (rows : List Byte),
    spriteRows Config.glyphBase Config.font s.mem s.i.toNat n.val = .ok rows →
    InWindow (s.pc.toNat + 2) → InWindow (s.pc.toNat + 4) →
    ∃ t, exec (.drw x y n) s = .next t ∧
      (t.reg x = s.reg x → t.reg y = s.reg y → ∃ u, exec (.drw x y n) t = .next u ∧ u.fb = s.fb ∧
        ((∃ r ∈ rows, r ≠ 0) →
          (∀ px < 64, ∀ py < 32, spriteCovers rows (s.reg x).toNat (s.reg y).toNat px py = true →
            pixel s.fb px py = false) →
          t.reg 15 = 0 ∧ u.reg 15 = 1) ∧
        ((∀ r ∈ rows, r = 0) → t.reg 15 = 0 ∧ u.reg 15 = 0))

/-! ## Family F -/

/-- R221, R223, R224: the timer moves. -/
def Obligations.TimersAreCopiedToAndFromRegisters : Prop :=
  ∀ (x : RegIx) (s : State),
    encode (.ldVxDt x) = fieldsX 0xF007 x ∧ encode (.ldDtVx x) = fieldsX 0xF015 x ∧
    encode (.ldStVx x) = fieldsX 0xF018 x ∧
    CompletesOrFaultsOnAdvance (.ldVxDt x) s { s with v := s.v.set x.val s.dt } ∧
    CompletesOrFaultsOnAdvance (.ldDtVx x) s { s with dt := s.reg x } ∧
    CompletesOrFaultsOnAdvance (.ldStVx x) s { s with st := s.reg x }

/-- R113, R222: FX0A suspends the block and changes nothing else. -/
def Obligations.KeyWaitSuspendsTheBlock : Prop :=
  ∀ (x : RegIx) (s : State), encode (.ldVxK x) = fieldsX 0xF00A x ∧
    exec (.ldVxK x) s = .next { s with run := .waitingKey x }

/-- R113, R222, R273, R280: a step of a key wait. What the input contract has answered at its draw decides: nothing yet, and
only the time waited grows; or key k, and V[X] receives k, the block runs and the PC advances, or the advance faults with
the word of FX0A. The timers, the accumulator and the key snapshot never change. The answers are constants with no body
(log entry 2), the time waited is the model's own count (log entry 7), and a step is one moment of the wait (log entry 8). -/
def Obligations.KeyWaitEndsOnlyWithAKey : Prop :=
  ∀ (x : RegIx) (s : State), s.run = .waitingKey x →
    (Config.keyEvent (s.draws + 1) = none →
      step s = .next { s with blocked := s.blocked + (Config.clockElapsed s.draws : Rat), draws := s.draws + 2 }) ∧
    (∀ k : Fin 16, Config.keyEvent (s.draws + 1) = some k →
      (CanAdvance s → step s = .next { s with
        v := s.v.set x.val (BitVec.ofNat 8 k.val), run := .running, pc := s.pc + 2,
        blocked := s.blocked + (Config.clockElapsed s.draws : Rat), draws := s.draws + 2 }) ∧
      (¬ CanAdvance s → step s = .next { haltedAt s (.ldVxK x) .invalidAddress (.address (s.pc.toNat + 2)) with
        blocked := s.blocked + (Config.clockElapsed s.draws : Rat), draws := s.draws + 2 }))

/-- R226: LD F, VX. The address is outside the window, so FX33, FX55 and FX65 fault on it. -/
def Obligations.PointingAtAGlyph : Prop :=
  ∀ (x : RegIx) (s : State), encode (.ldF x) = fieldsX 0xF029 x ∧
    ((s.reg x).toNat ≤ 15 → ¬ InWindow (Config.glyphBase + (s.reg x).toNat) ∧
      CompletesOrFaultsOnAdvance (.ldF x) s { s with i := BitVec.ofNat 16 (Config.glyphBase + (s.reg x).toNat) }) ∧
    (15 < (s.reg x).toNat →
      exec (.ldF x) s = .next (haltedAt s (.ldF x) .glyphRange (.glyph (s.reg x).toNat 0)))

/-- R227: LD B, VX stores the hundreds, tens and ones at I, I + 1 and I + 2, and leaves I; the first address outside the
window raises, and nothing is stored. -/
def Obligations.DecimalDigitsAreStoredInOrder : Prop :=
  ∀ (x : RegIx) (s : State) (d : Nat), s.mem.wf = true → d = (s.reg x).toNat →
    encode (.ldB x) = fieldsX 0xF033 x ∧
    (InWindow s.i.toNat → InWindow (s.i.toNat + 2) → ∃ m : Memory,
      m.read s.i.toNat = BitVec.ofNat 8 (d / 100) ∧ m.read (s.i.toNat + 1) = BitVec.ofNat 8 (d / 10 % 10) ∧
      m.read (s.i.toNat + 2) = BitVec.ofNat 8 (d % 10) ∧
      (∀ a, ¬ (s.i.toNat ≤ a ∧ a < s.i.toNat + 3) → m.read a = s.mem.read a) ∧
      CompletesOrFaultsOnAdvance (.ldB x) s { s with mem := m }) ∧
    (∀ j < 3, (∀ k < j, InWindow (s.i.toNat + k)) → ¬ InWindow (s.i.toNat + j) →
      exec (.ldB x) s = .next (haltedAt s (.ldB x) .invalidAddress (.address (s.i.toNat + j))))

/-- R228: LD [I], VX stores V[0] to V[X] from I on and advances I by X + 1; the first address outside the window raises, and
nothing is stored. -/
def Obligations.RegistersAreStoredInOrder : Prop :=
  ∀ (x : RegIx) (s : State), s.mem.wf = true → encode (.storeRegs x) = fieldsX 0xF055 x ∧
    (InWindow s.i.toNat → InWindow (s.i.toNat + x.val) → ∃ m : Memory,
      (∀ k : RegIx, k.val ≤ x.val → m.read (s.i.toNat + k.val) = s.reg k) ∧
      (∀ a, ¬ (s.i.toNat ≤ a ∧ a < s.i.toNat + (x.val + 1)) → m.read a = s.mem.read a) ∧
      CompletesOrFaultsOnAdvance (.storeRegs x) s
        { s with mem := m, i := BitVec.ofNat 16 ((s.i.toNat + x.val + 1) % 0x10000) }) ∧
    (∀ j ≤ x.val, (∀ k < j, InWindow (s.i.toNat + k)) → ¬ InWindow (s.i.toNat + j) →
      exec (.storeRegs x) s = .next (haltedAt s (.storeRegs x) .invalidAddress (.address (s.i.toNat + j))))

/-- R229: LD VX, [I] loads V[0] to V[X] from I on and advances I by X + 1; the first address outside the window raises, and no
register is written. -/
def Obligations.RegistersAreLoadedInOrder : Prop :=
  ∀ (x : RegIx) (s : State), encode (.loadRegs x) = fieldsX 0xF065 x ∧
    (InWindow s.i.toNat → InWindow (s.i.toNat + x.val) → ∃ v : Vector Byte 16,
      (∀ k : RegIx, v.get k = if k.val ≤ x.val then s.mem.read (s.i.toNat + k.val) else s.reg k) ∧
      CompletesOrFaultsOnAdvance (.loadRegs x) s
        { s with v := v, i := BitVec.ofNat 16 ((s.i.toNat + x.val + 1) % 0x10000) }) ∧
    (∀ j ≤ x.val, (∀ k < j, InWindow (s.i.toNat + k)) → ¬ InWindow (s.i.toNat + j) →
      exec (.loadRegs x) s = .next (haltedAt s (.loadRegs x) .invalidAddress (.address (s.i.toNat + j))))

/-! ## Timers and outputs -/

/-- R270: phases (a) and (b) of an iteration. The time counted is the clock's answer, and the wait before it where
WAIT_TIME_CREDITED is true and not where it is false (R273); the accumulator ends below one tick, and each timer has lost one
per tick, floored at 0. The clock's answers and WAIT_TIME_CREDITED are constants with no body (log entries 2 and 7), the time
waited is the model's own count (log entry 7), and the loop of R270 is modelled in closed form (log entry 10). -/
def Obligations.TimerPhaseTurnsTimeIntoTicks : Prop :=
  ∀ s : State, 0 ≤ s.acc → 0 ≤ s.blocked → ∃ ticks : Nat,
    s.acc + ((Config.clockElapsed s.draws : Rat) + if Config.waitTimeCredited = true then s.blocked else 0) =
      (ticks : Rat) * (1 / 60) + s.beforePhaseD.acc ∧
    0 ≤ s.beforePhaseD.acc ∧ s.beforePhaseD.acc < 1 / 60 ∧
    s.beforePhaseD.dt.toNat = s.dt.toNat - ticks ∧ s.beforePhaseD.st.toNat = s.st.toNat - ticks

/-- R272, which the spec marks "[derived: from rule R270]": over a stretch of timer phases whose elapsed times add up to T, the ticks are floor((acc0 + T) / TICK), and each timer
ends at max(0, v - ticks). -/
def Obligations.TimersOverAStretchOfPhases : Prop :=
  ∀ (s : State) (deltas : List Rat) (ticks : Nat), 0 ≤ s.acc → s.acc < 1 / 60 → (∀ d ∈ deltas, 0 ≤ d) →
    (ticks : Rat) * (1 / 60) ≤ s.acc + deltas.sum → s.acc + deltas.sum < ((ticks : Rat) + 1) * (1 / 60) →
    (deltas.foldl State.timersAdvance s).dt.toNat = s.dt.toNat - ticks ∧
    (deltas.foldl State.timersAdvance s).st.toNat = s.st.toNat - ticks ∧
    (deltas.foldl State.timersAdvance s).acc = s.acc + deltas.sum - (ticks : Rat) * (1 / 60)

/-- R271 and R272, which the spec marks "[derived: from rule R270]": a timer never rises except by the instruction that writes it. -/
def Obligations.TimersRiseOnlyByTheirWrites : Prop :=
  ∀ s t : State, step s = .next t →
    (s.dt.toNat < t.dt.toNat → s.run = .running ∧ s.skip = 0 ∧ ∃ x, fetch s = .ok (encode (.ldDtVx x))) ∧
    (s.st.toNat < t.st.toNat → s.run = .running ∧ s.skip = 0 ∧ ∃ x, fetch s = .ok (encode (.ldStVx x)))

/-- R101: a value read by FX07 in an iteration includes that iteration's ticks, and one written by FX15 is not decremented in
it. -/
def Obligations.TicksComeBeforeTheInstruction : Prop :=
  ∀ (s : State) (x : RegIx), s.run = .running → s.skip = 0 → InWindow s.pc.toNat → InWindow (s.pc.toNat + 2) →
    (decodeBytes (s.mem.read s.pc.toNat) (s.mem.read (s.pc.toNat + 1)) = .ok (.ldVxDt x) →
      ∃ t, step s = .next t ∧ t.dt = s.beforePhaseD.dt ∧ t.reg x = s.beforePhaseD.dt) ∧
    (decodeBytes (s.mem.read s.pc.toNat) (s.mem.read (s.pc.toNat + 1)) = .ok (.ldDtVx x) →
      ∃ t, step s = .next t ∧ t.dt = s.reg x)

/-- R284: the fault report. The clause on the sound status is derived: it is R283's, an output that the spec calls its own
choice (92_eei_decisions.md D22). -/
def Obligations.OutputsFollowTheState : Prop :=
  (∀ s : State, s.soundActive = true ↔ s.st ≠ 0) ∧
  (∀ (s : State) (e : ErrRecord), s.faultReport = some e ↔ s.run = .halted e)

/-! ## Frames -/

/-- R23: an instruction that answers a next state leaves every general register but those it writes. All instructions. -/
def Obligations.OtherRegistersAreUnchanged : Prop :=
  ∀ (i : Instr) (s t : State), exec i s = .next t → RegsSameExcept s t (writtenRegs i)

/-- R59: an instruction that answers a next state leaves every byte of memory but those it stores to, from the address I on:
3 for FX33, X + 1 for FX55, none for every other instruction. All instructions. -/
def Obligations.OtherBytesAreUnchanged : Prop :=
  ∀ (i : Instr) (s t : State), s.mem.wf = true → exec i s = .next t →
    ∀ a, ¬ (s.iAddr ≤ a ∧ a < s.iAddr + storedBytes i) → t.mem.read a = s.mem.read a

/-- R26, R30, R34, R150, R206, R271, R276: an instruction that answers a next state leaves I, the stack, the timers, the
pending-skip counter and the display, except the instructions that write them; and always the accumulator and the key
snapshot. Of the model's own fields, it leaves the draws unless it is RND (log entry 2), and always the time waited (log
entry 7), the canvas size and the start mark (log entry 11). All instructions. -/
def Obligations.OtherStateIsUnchanged : Prop :=
  ∀ (i : Instr) (s t : State), exec i s = .next t →
    (writesI i = false → t.i = s.i) ∧
    ((∀ nnn, i ≠ .call nnn) → t.stack = s.stack) ∧
    ((∀ nnn, i ≠ .call nnn) → i ≠ .ret → t.sp = s.sp) ∧
    ((∀ x, i ≠ .ldDtVx x) → t.dt = s.dt) ∧
    ((∀ x, i ≠ .ldStVx x) → t.st = s.st) ∧
    (isSkip i = false → t.skip = s.skip) ∧
    (i ≠ .cls → (∀ x y n, i ≠ .drw x y n) → t.fb = s.fb) ∧
    ((∀ x nn, i ≠ .rnd x nn) → t.draws = s.draws) ∧
    t.acc = s.acc ∧ t.keys = s.keys ∧ t.extents = s.extents ∧ t.blocked = s.blocked ∧ t.started = s.started ∧
    (t.run = s.run ∨ (∃ x, i = .ldVxK x ∧ t.run = .waitingKey x) ∨ ∃ e, t.run = .halted e)

/-- R59, R61: over a whole step, memory changes only when the word executed is FX33 or FX55. -/
def Obligations.OnlyStoresChangeMemory : Prop :=
  ∀ s t : State, step s = .next t → t.mem ≠ s.mem →
    s.run = .running ∧ s.skip = 0 ∧ ∃ x, fetch s = .ok (encode (.ldB x)) ∨ fetch s = .ok (encode (.storeRegs x))

/-- R276, R278: over a whole step, the display's pixels change only when the word executed is CLS or DXYN. -/
def Obligations.OnlyClsAndDrwChangeTheDisplay : Prop :=
  ∀ s t : State, step s = .next t → t.fb ≠ s.fb →
    s.run = .running ∧ s.skip = 0 ∧
      (fetch s = .ok (encode .cls) ∨ ∃ x y n, fetch s = .ok (encode (.drw x y n)))

/-- R30: over a whole step, the call stack and its depth change only when the word executed is CALL or RET. -/
def Obligations.OnlyCallAndRetReachTheStack : Prop :=
  ∀ s t : State, step s = .next t → (t.stack ≠ s.stack ∨ t.sp ≠ s.sp) →
    s.run = .running ∧ s.skip = 0 ∧ (fetch s = .ok (encode .ret) ∨ ∃ nnn, fetch s = .ok (encode (.call nnn)))

/-! ## Boot -/

/-- R292, R277: boot is reset, `set_extents(64, 32)` and the load; it leaves the reset state with the canvas of 64 by 32 and the
image in memory, and meets the invariant. An iteration of a loop that has not started, or has this canvas, leaves this
canvas, and a key wait leaves the canvas as it is. The canvas size and the start mark are fields of the model (log entries 1
and 11). -/
def Obligations.BootEstablishesTheCanvas : Prop :=
  (∀ img : List Byte, ∃ m, boot img = .next { State.reset with extents := some (64, 32), mem := m } ∧
    MachineInv { State.reset with extents := some (64, 32), mem := m } ∧
    (∀ k, (h : k < min img.length Config.memSize) → m.read (Config.base + k) = img[k]'(by omega)) ∧
    (∀ a, ¬ (Config.base ≤ a ∧ a < Config.base + min img.length Config.memSize) → m.read a = 0)) ∧
  (∀ s : State, s.run = .running → (s.started = true → s.extents = some (64, 32)) →
    ∃ t, step s = .next t ∧ t.started = true ∧ t.extents = some (64, 32)) ∧
  (∀ (s : State) (x : RegIx), s.run = .waitingKey x → ∃ t, step s = .next t ∧ t.started = s.started ∧ t.extents = s.extents)
end

