-- ==== Sys2Proof/Laws/State.lean ====
section
/-! SUPPORT. The small lemmas of the state's updates: for each update, what each field holds after it. So no later proof
unfolds a record update. -/

namespace Sys2Proof.Machine

variable (s : State)

/-! ## Reading a register after a write -/

@[simp] theorem State.reg_setReg_same (x : RegIx) (b : Byte) : (s.setReg x b).reg x = b := by
  simp [State.reg, State.setReg, Vector.get_eq_getElem]

theorem State.reg_setReg_of_ne {x y : RegIx} (h : y ≠ x) (b : Byte) : (s.setReg x b).reg y = s.reg y := by
  have h' : x.val ≠ y.val := fun e => h (Fin.ext e.symm)
  simp [State.reg, State.setReg, Vector.get_eq_getElem, Vector.getElem_set_ne, h']

theorem State.reg_setReg (x y : RegIx) (b : Byte) : (s.setReg x b).reg y = if y = x then b else s.reg y := by
  split
  · next h => subst h; simp
  · next h => exact s.reg_setReg_of_ne h b

/-! ## setReg -/

@[simp] theorem State.v_setReg (x : RegIx) (b : Byte) : (s.setReg x b).v = s.v.set x.val b x.isLt := rfl
@[simp] theorem State.i_setReg (x : RegIx) (b : Byte) : (s.setReg x b).i = s.i := rfl
@[simp] theorem State.pc_setReg (x : RegIx) (b : Byte) : (s.setReg x b).pc = s.pc := rfl
@[simp] theorem State.sp_setReg (x : RegIx) (b : Byte) : (s.setReg x b).sp = s.sp := rfl
@[simp] theorem State.stack_setReg (x : RegIx) (b : Byte) : (s.setReg x b).stack = s.stack := rfl
@[simp] theorem State.dt_setReg (x : RegIx) (b : Byte) : (s.setReg x b).dt = s.dt := rfl
@[simp] theorem State.st_setReg (x : RegIx) (b : Byte) : (s.setReg x b).st = s.st := rfl
@[simp] theorem State.skip_setReg (x : RegIx) (b : Byte) : (s.setReg x b).skip = s.skip := rfl
@[simp] theorem State.acc_setReg (x : RegIx) (b : Byte) : (s.setReg x b).acc = s.acc := rfl
@[simp] theorem State.keys_setReg (x : RegIx) (b : Byte) : (s.setReg x b).keys = s.keys := rfl
@[simp] theorem State.run_setReg (x : RegIx) (b : Byte) : (s.setReg x b).run = s.run := rfl
@[simp] theorem State.mem_setReg (x : RegIx) (b : Byte) : (s.setReg x b).mem = s.mem := rfl
@[simp] theorem State.fb_setReg (x : RegIx) (b : Byte) : (s.setReg x b).fb = s.fb := rfl
@[simp] theorem State.extents_setReg (x : RegIx) (b : Byte) : (s.setReg x b).extents = s.extents := rfl
@[simp] theorem State.started_setReg (x : RegIx) (b : Byte) : (s.setReg x b).started = s.started := rfl
@[simp] theorem State.blocked_setReg (x : RegIx) (b : Byte) : (s.setReg x b).blocked = s.blocked := rfl
@[simp] theorem State.draws_setReg (x : RegIx) (b : Byte) : (s.setReg x b).draws = s.draws := rfl

/-! ## setRegs -/

@[simp] theorem State.v_setRegs (v : Vector Byte 16) : (s.setRegs v).v = v := rfl
@[simp] theorem State.i_setRegs (v : Vector Byte 16) : (s.setRegs v).i = s.i := rfl
@[simp] theorem State.pc_setRegs (v : Vector Byte 16) : (s.setRegs v).pc = s.pc := rfl
@[simp] theorem State.sp_setRegs (v : Vector Byte 16) : (s.setRegs v).sp = s.sp := rfl
@[simp] theorem State.stack_setRegs (v : Vector Byte 16) : (s.setRegs v).stack = s.stack := rfl
@[simp] theorem State.dt_setRegs (v : Vector Byte 16) : (s.setRegs v).dt = s.dt := rfl
@[simp] theorem State.st_setRegs (v : Vector Byte 16) : (s.setRegs v).st = s.st := rfl
@[simp] theorem State.skip_setRegs (v : Vector Byte 16) : (s.setRegs v).skip = s.skip := rfl
@[simp] theorem State.acc_setRegs (v : Vector Byte 16) : (s.setRegs v).acc = s.acc := rfl
@[simp] theorem State.keys_setRegs (v : Vector Byte 16) : (s.setRegs v).keys = s.keys := rfl
@[simp] theorem State.run_setRegs (v : Vector Byte 16) : (s.setRegs v).run = s.run := rfl
@[simp] theorem State.mem_setRegs (v : Vector Byte 16) : (s.setRegs v).mem = s.mem := rfl
@[simp] theorem State.fb_setRegs (v : Vector Byte 16) : (s.setRegs v).fb = s.fb := rfl
@[simp] theorem State.extents_setRegs (v : Vector Byte 16) : (s.setRegs v).extents = s.extents := rfl
@[simp] theorem State.started_setRegs (v : Vector Byte 16) : (s.setRegs v).started = s.started := rfl
@[simp] theorem State.blocked_setRegs (v : Vector Byte 16) : (s.setRegs v).blocked = s.blocked := rfl
@[simp] theorem State.draws_setRegs (v : Vector Byte 16) : (s.setRegs v).draws = s.draws := rfl

/-! ## setI -/

@[simp] theorem State.v_setI (w : Word) : (s.setI w).v = s.v := rfl
@[simp] theorem State.i_setI (w : Word) : (s.setI w).i = w := rfl
@[simp] theorem State.pc_setI (w : Word) : (s.setI w).pc = s.pc := rfl
@[simp] theorem State.sp_setI (w : Word) : (s.setI w).sp = s.sp := rfl
@[simp] theorem State.stack_setI (w : Word) : (s.setI w).stack = s.stack := rfl
@[simp] theorem State.dt_setI (w : Word) : (s.setI w).dt = s.dt := rfl
@[simp] theorem State.st_setI (w : Word) : (s.setI w).st = s.st := rfl
@[simp] theorem State.skip_setI (w : Word) : (s.setI w).skip = s.skip := rfl
@[simp] theorem State.acc_setI (w : Word) : (s.setI w).acc = s.acc := rfl
@[simp] theorem State.keys_setI (w : Word) : (s.setI w).keys = s.keys := rfl
@[simp] theorem State.run_setI (w : Word) : (s.setI w).run = s.run := rfl
@[simp] theorem State.mem_setI (w : Word) : (s.setI w).mem = s.mem := rfl
@[simp] theorem State.fb_setI (w : Word) : (s.setI w).fb = s.fb := rfl
@[simp] theorem State.extents_setI (w : Word) : (s.setI w).extents = s.extents := rfl
@[simp] theorem State.started_setI (w : Word) : (s.setI w).started = s.started := rfl
@[simp] theorem State.blocked_setI (w : Word) : (s.setI w).blocked = s.blocked := rfl
@[simp] theorem State.draws_setI (w : Word) : (s.setI w).draws = s.draws := rfl
@[simp] theorem State.reg_setI (w : Word) (r : RegIx) : (s.setI w).reg r = s.reg r := rfl

/-! ## setPc -/

@[simp] theorem State.v_setPc (w : Word) : (s.setPc w).v = s.v := rfl
@[simp] theorem State.i_setPc (w : Word) : (s.setPc w).i = s.i := rfl
@[simp] theorem State.pc_setPc (w : Word) : (s.setPc w).pc = w := rfl
@[simp] theorem State.sp_setPc (w : Word) : (s.setPc w).sp = s.sp := rfl
@[simp] theorem State.stack_setPc (w : Word) : (s.setPc w).stack = s.stack := rfl
@[simp] theorem State.dt_setPc (w : Word) : (s.setPc w).dt = s.dt := rfl
@[simp] theorem State.st_setPc (w : Word) : (s.setPc w).st = s.st := rfl
@[simp] theorem State.skip_setPc (w : Word) : (s.setPc w).skip = s.skip := rfl
@[simp] theorem State.acc_setPc (w : Word) : (s.setPc w).acc = s.acc := rfl
@[simp] theorem State.keys_setPc (w : Word) : (s.setPc w).keys = s.keys := rfl
@[simp] theorem State.run_setPc (w : Word) : (s.setPc w).run = s.run := rfl
@[simp] theorem State.mem_setPc (w : Word) : (s.setPc w).mem = s.mem := rfl
@[simp] theorem State.fb_setPc (w : Word) : (s.setPc w).fb = s.fb := rfl
@[simp] theorem State.extents_setPc (w : Word) : (s.setPc w).extents = s.extents := rfl
@[simp] theorem State.started_setPc (w : Word) : (s.setPc w).started = s.started := rfl
@[simp] theorem State.blocked_setPc (w : Word) : (s.setPc w).blocked = s.blocked := rfl
@[simp] theorem State.draws_setPc (w : Word) : (s.setPc w).draws = s.draws := rfl
@[simp] theorem State.reg_setPc (w : Word) (r : RegIx) : (s.setPc w).reg r = s.reg r := rfl

/-! ## setDt -/

@[simp] theorem State.v_setDt (b : Byte) : (s.setDt b).v = s.v := rfl
@[simp] theorem State.i_setDt (b : Byte) : (s.setDt b).i = s.i := rfl
@[simp] theorem State.pc_setDt (b : Byte) : (s.setDt b).pc = s.pc := rfl
@[simp] theorem State.sp_setDt (b : Byte) : (s.setDt b).sp = s.sp := rfl
@[simp] theorem State.stack_setDt (b : Byte) : (s.setDt b).stack = s.stack := rfl
@[simp] theorem State.dt_setDt (b : Byte) : (s.setDt b).dt = b := rfl
@[simp] theorem State.st_setDt (b : Byte) : (s.setDt b).st = s.st := rfl
@[simp] theorem State.skip_setDt (b : Byte) : (s.setDt b).skip = s.skip := rfl
@[simp] theorem State.acc_setDt (b : Byte) : (s.setDt b).acc = s.acc := rfl
@[simp] theorem State.keys_setDt (b : Byte) : (s.setDt b).keys = s.keys := rfl
@[simp] theorem State.run_setDt (b : Byte) : (s.setDt b).run = s.run := rfl
@[simp] theorem State.mem_setDt (b : Byte) : (s.setDt b).mem = s.mem := rfl
@[simp] theorem State.fb_setDt (b : Byte) : (s.setDt b).fb = s.fb := rfl
@[simp] theorem State.extents_setDt (b : Byte) : (s.setDt b).extents = s.extents := rfl
@[simp] theorem State.started_setDt (b : Byte) : (s.setDt b).started = s.started := rfl
@[simp] theorem State.blocked_setDt (b : Byte) : (s.setDt b).blocked = s.blocked := rfl
@[simp] theorem State.draws_setDt (b : Byte) : (s.setDt b).draws = s.draws := rfl
@[simp] theorem State.reg_setDt (b : Byte) (r : RegIx) : (s.setDt b).reg r = s.reg r := rfl

/-! ## setSt -/

@[simp] theorem State.v_setSt (b : Byte) : (s.setSt b).v = s.v := rfl
@[simp] theorem State.i_setSt (b : Byte) : (s.setSt b).i = s.i := rfl
@[simp] theorem State.pc_setSt (b : Byte) : (s.setSt b).pc = s.pc := rfl
@[simp] theorem State.sp_setSt (b : Byte) : (s.setSt b).sp = s.sp := rfl
@[simp] theorem State.stack_setSt (b : Byte) : (s.setSt b).stack = s.stack := rfl
@[simp] theorem State.dt_setSt (b : Byte) : (s.setSt b).dt = s.dt := rfl
@[simp] theorem State.st_setSt (b : Byte) : (s.setSt b).st = b := rfl
@[simp] theorem State.skip_setSt (b : Byte) : (s.setSt b).skip = s.skip := rfl
@[simp] theorem State.acc_setSt (b : Byte) : (s.setSt b).acc = s.acc := rfl
@[simp] theorem State.keys_setSt (b : Byte) : (s.setSt b).keys = s.keys := rfl
@[simp] theorem State.run_setSt (b : Byte) : (s.setSt b).run = s.run := rfl
@[simp] theorem State.mem_setSt (b : Byte) : (s.setSt b).mem = s.mem := rfl
@[simp] theorem State.fb_setSt (b : Byte) : (s.setSt b).fb = s.fb := rfl
@[simp] theorem State.extents_setSt (b : Byte) : (s.setSt b).extents = s.extents := rfl
@[simp] theorem State.started_setSt (b : Byte) : (s.setSt b).started = s.started := rfl
@[simp] theorem State.blocked_setSt (b : Byte) : (s.setSt b).blocked = s.blocked := rfl
@[simp] theorem State.draws_setSt (b : Byte) : (s.setSt b).draws = s.draws := rfl
@[simp] theorem State.reg_setSt (b : Byte) (r : RegIx) : (s.setSt b).reg r = s.reg r := rfl

/-! ## setRun -/

@[simp] theorem State.v_setRun (r : RunState) : (s.setRun r).v = s.v := rfl
@[simp] theorem State.i_setRun (r : RunState) : (s.setRun r).i = s.i := rfl
@[simp] theorem State.pc_setRun (r : RunState) : (s.setRun r).pc = s.pc := rfl
@[simp] theorem State.sp_setRun (r : RunState) : (s.setRun r).sp = s.sp := rfl
@[simp] theorem State.stack_setRun (r : RunState) : (s.setRun r).stack = s.stack := rfl
@[simp] theorem State.dt_setRun (r : RunState) : (s.setRun r).dt = s.dt := rfl
@[simp] theorem State.st_setRun (r : RunState) : (s.setRun r).st = s.st := rfl
@[simp] theorem State.skip_setRun (r : RunState) : (s.setRun r).skip = s.skip := rfl
@[simp] theorem State.acc_setRun (r : RunState) : (s.setRun r).acc = s.acc := rfl
@[simp] theorem State.keys_setRun (r : RunState) : (s.setRun r).keys = s.keys := rfl
@[simp] theorem State.run_setRun (r : RunState) : (s.setRun r).run = r := rfl
@[simp] theorem State.mem_setRun (r : RunState) : (s.setRun r).mem = s.mem := rfl
@[simp] theorem State.fb_setRun (r : RunState) : (s.setRun r).fb = s.fb := rfl
@[simp] theorem State.extents_setRun (r : RunState) : (s.setRun r).extents = s.extents := rfl
@[simp] theorem State.started_setRun (r : RunState) : (s.setRun r).started = s.started := rfl
@[simp] theorem State.blocked_setRun (r : RunState) : (s.setRun r).blocked = s.blocked := rfl
@[simp] theorem State.draws_setRun (r : RunState) : (s.setRun r).draws = s.draws := rfl
@[simp] theorem State.reg_setRun (q : RunState) (r : RegIx) : (s.setRun q).reg r = s.reg r := rfl

/-! ## setMem -/

@[simp] theorem State.v_setMem (m : Memory) : (s.setMem m).v = s.v := rfl
@[simp] theorem State.i_setMem (m : Memory) : (s.setMem m).i = s.i := rfl
@[simp] theorem State.pc_setMem (m : Memory) : (s.setMem m).pc = s.pc := rfl
@[simp] theorem State.sp_setMem (m : Memory) : (s.setMem m).sp = s.sp := rfl
@[simp] theorem State.stack_setMem (m : Memory) : (s.setMem m).stack = s.stack := rfl
@[simp] theorem State.dt_setMem (m : Memory) : (s.setMem m).dt = s.dt := rfl
@[simp] theorem State.st_setMem (m : Memory) : (s.setMem m).st = s.st := rfl
@[simp] theorem State.skip_setMem (m : Memory) : (s.setMem m).skip = s.skip := rfl
@[simp] theorem State.acc_setMem (m : Memory) : (s.setMem m).acc = s.acc := rfl
@[simp] theorem State.keys_setMem (m : Memory) : (s.setMem m).keys = s.keys := rfl
@[simp] theorem State.run_setMem (m : Memory) : (s.setMem m).run = s.run := rfl
@[simp] theorem State.mem_setMem (m : Memory) : (s.setMem m).mem = m := rfl
@[simp] theorem State.fb_setMem (m : Memory) : (s.setMem m).fb = s.fb := rfl
@[simp] theorem State.extents_setMem (m : Memory) : (s.setMem m).extents = s.extents := rfl
@[simp] theorem State.started_setMem (m : Memory) : (s.setMem m).started = s.started := rfl
@[simp] theorem State.blocked_setMem (m : Memory) : (s.setMem m).blocked = s.blocked := rfl
@[simp] theorem State.draws_setMem (m : Memory) : (s.setMem m).draws = s.draws := rfl
@[simp] theorem State.reg_setMem (m : Memory) (r : RegIx) : (s.setMem m).reg r = s.reg r := rfl

/-! ## nextDraw -/

@[simp] theorem State.v_nextDraw : (s.nextDraw).v = s.v := rfl
@[simp] theorem State.i_nextDraw : (s.nextDraw).i = s.i := rfl
@[simp] theorem State.pc_nextDraw : (s.nextDraw).pc = s.pc := rfl
@[simp] theorem State.sp_nextDraw : (s.nextDraw).sp = s.sp := rfl
@[simp] theorem State.stack_nextDraw : (s.nextDraw).stack = s.stack := rfl
@[simp] theorem State.dt_nextDraw : (s.nextDraw).dt = s.dt := rfl
@[simp] theorem State.st_nextDraw : (s.nextDraw).st = s.st := rfl
@[simp] theorem State.skip_nextDraw : (s.nextDraw).skip = s.skip := rfl
@[simp] theorem State.acc_nextDraw : (s.nextDraw).acc = s.acc := rfl
@[simp] theorem State.keys_nextDraw : (s.nextDraw).keys = s.keys := rfl
@[simp] theorem State.run_nextDraw : (s.nextDraw).run = s.run := rfl
@[simp] theorem State.mem_nextDraw : (s.nextDraw).mem = s.mem := rfl
@[simp] theorem State.fb_nextDraw : (s.nextDraw).fb = s.fb := rfl
@[simp] theorem State.extents_nextDraw : (s.nextDraw).extents = s.extents := rfl
@[simp] theorem State.started_nextDraw : (s.nextDraw).started = s.started := rfl
@[simp] theorem State.blocked_nextDraw : (s.nextDraw).blocked = s.blocked := rfl
@[simp] theorem State.draws_nextDraw : (s.nextDraw).draws = s.draws + 1 := rfl
@[simp] theorem State.reg_nextDraw (r : RegIx) : (s.nextDraw).reg r = s.reg r := rfl

/-! ## requestSkip -/

@[simp] theorem State.v_requestSkip (c : Bool) : (s.requestSkip c).v = s.v := rfl
@[simp] theorem State.i_requestSkip (c : Bool) : (s.requestSkip c).i = s.i := rfl
@[simp] theorem State.pc_requestSkip (c : Bool) : (s.requestSkip c).pc = s.pc := rfl
@[simp] theorem State.sp_requestSkip (c : Bool) : (s.requestSkip c).sp = s.sp := rfl
@[simp] theorem State.stack_requestSkip (c : Bool) : (s.requestSkip c).stack = s.stack := rfl
@[simp] theorem State.dt_requestSkip (c : Bool) : (s.requestSkip c).dt = s.dt := rfl
@[simp] theorem State.st_requestSkip (c : Bool) : (s.requestSkip c).st = s.st := rfl
@[simp] theorem State.skip_requestSkip (c : Bool) : (s.requestSkip c).skip = s.skip + c.toNat := rfl
@[simp] theorem State.acc_requestSkip (c : Bool) : (s.requestSkip c).acc = s.acc := rfl
@[simp] theorem State.keys_requestSkip (c : Bool) : (s.requestSkip c).keys = s.keys := rfl
@[simp] theorem State.run_requestSkip (c : Bool) : (s.requestSkip c).run = s.run := rfl
@[simp] theorem State.mem_requestSkip (c : Bool) : (s.requestSkip c).mem = s.mem := rfl
@[simp] theorem State.fb_requestSkip (c : Bool) : (s.requestSkip c).fb = s.fb := rfl
@[simp] theorem State.extents_requestSkip (c : Bool) : (s.requestSkip c).extents = s.extents := rfl
@[simp] theorem State.started_requestSkip (c : Bool) : (s.requestSkip c).started = s.started := rfl
@[simp] theorem State.blocked_requestSkip (c : Bool) : (s.requestSkip c).blocked = s.blocked := rfl
@[simp] theorem State.draws_requestSkip (c : Bool) : (s.requestSkip c).draws = s.draws := rfl
@[simp] theorem State.reg_requestSkip (c : Bool) (r : RegIx) : (s.requestSkip c).reg r = s.reg r := rfl

/-! ## decSkip -/

@[simp] theorem State.v_decSkip : (s.decSkip).v = s.v := rfl
@[simp] theorem State.i_decSkip : (s.decSkip).i = s.i := rfl
@[simp] theorem State.pc_decSkip : (s.decSkip).pc = s.pc := rfl
@[simp] theorem State.sp_decSkip : (s.decSkip).sp = s.sp := rfl
@[simp] theorem State.stack_decSkip : (s.decSkip).stack = s.stack := rfl
@[simp] theorem State.dt_decSkip : (s.decSkip).dt = s.dt := rfl
@[simp] theorem State.st_decSkip : (s.decSkip).st = s.st := rfl
@[simp] theorem State.skip_decSkip : (s.decSkip).skip = s.skip - 1 := rfl
@[simp] theorem State.acc_decSkip : (s.decSkip).acc = s.acc := rfl
@[simp] theorem State.keys_decSkip : (s.decSkip).keys = s.keys := rfl
@[simp] theorem State.run_decSkip : (s.decSkip).run = s.run := rfl
@[simp] theorem State.mem_decSkip : (s.decSkip).mem = s.mem := rfl
@[simp] theorem State.fb_decSkip : (s.decSkip).fb = s.fb := rfl
@[simp] theorem State.extents_decSkip : (s.decSkip).extents = s.extents := rfl
@[simp] theorem State.started_decSkip : (s.decSkip).started = s.started := rfl
@[simp] theorem State.blocked_decSkip : (s.decSkip).blocked = s.blocked := rfl
@[simp] theorem State.draws_decSkip : (s.decSkip).draws = s.draws := rfl
@[simp] theorem State.reg_decSkip (r : RegIx) : (s.decSkip).reg r = s.reg r := rfl

/-! ## clearDisplay -/

@[simp] theorem State.v_clearDisplay : (s.clearDisplay).v = s.v := rfl
@[simp] theorem State.i_clearDisplay : (s.clearDisplay).i = s.i := rfl
@[simp] theorem State.pc_clearDisplay : (s.clearDisplay).pc = s.pc := rfl
@[simp] theorem State.sp_clearDisplay : (s.clearDisplay).sp = s.sp := rfl
@[simp] theorem State.stack_clearDisplay : (s.clearDisplay).stack = s.stack := rfl
@[simp] theorem State.dt_clearDisplay : (s.clearDisplay).dt = s.dt := rfl
@[simp] theorem State.st_clearDisplay : (s.clearDisplay).st = s.st := rfl
@[simp] theorem State.skip_clearDisplay : (s.clearDisplay).skip = s.skip := rfl
@[simp] theorem State.acc_clearDisplay : (s.clearDisplay).acc = s.acc := rfl
@[simp] theorem State.keys_clearDisplay : (s.clearDisplay).keys = s.keys := rfl
@[simp] theorem State.run_clearDisplay : (s.clearDisplay).run = s.run := rfl
@[simp] theorem State.mem_clearDisplay : (s.clearDisplay).mem = s.mem := rfl
@[simp] theorem State.fb_clearDisplay : (s.clearDisplay).fb = blankCanvas := rfl
@[simp] theorem State.extents_clearDisplay : (s.clearDisplay).extents = s.extents := rfl
@[simp] theorem State.started_clearDisplay : (s.clearDisplay).started = s.started := rfl
@[simp] theorem State.blocked_clearDisplay : (s.clearDisplay).blocked = s.blocked := rfl
@[simp] theorem State.draws_clearDisplay : (s.clearDisplay).draws = s.draws := rfl
@[simp] theorem State.reg_clearDisplay (r : RegIx) : (s.clearDisplay).reg r = s.reg r := rfl

/-! ## setFb -/

@[simp] theorem State.v_setFb (fb : Framebuffer) : (s.setFb fb).v = s.v := rfl
@[simp] theorem State.i_setFb (fb : Framebuffer) : (s.setFb fb).i = s.i := rfl
@[simp] theorem State.pc_setFb (fb : Framebuffer) : (s.setFb fb).pc = s.pc := rfl
@[simp] theorem State.sp_setFb (fb : Framebuffer) : (s.setFb fb).sp = s.sp := rfl
@[simp] theorem State.stack_setFb (fb : Framebuffer) : (s.setFb fb).stack = s.stack := rfl
@[simp] theorem State.dt_setFb (fb : Framebuffer) : (s.setFb fb).dt = s.dt := rfl
@[simp] theorem State.st_setFb (fb : Framebuffer) : (s.setFb fb).st = s.st := rfl
@[simp] theorem State.skip_setFb (fb : Framebuffer) : (s.setFb fb).skip = s.skip := rfl
@[simp] theorem State.acc_setFb (fb : Framebuffer) : (s.setFb fb).acc = s.acc := rfl
@[simp] theorem State.keys_setFb (fb : Framebuffer) : (s.setFb fb).keys = s.keys := rfl
@[simp] theorem State.run_setFb (fb : Framebuffer) : (s.setFb fb).run = s.run := rfl
@[simp] theorem State.mem_setFb (fb : Framebuffer) : (s.setFb fb).mem = s.mem := rfl
@[simp] theorem State.fb_setFb (fb : Framebuffer) : (s.setFb fb).fb = fb := rfl
@[simp] theorem State.extents_setFb (fb : Framebuffer) : (s.setFb fb).extents = s.extents := rfl
@[simp] theorem State.started_setFb (fb : Framebuffer) : (s.setFb fb).started = s.started := rfl
@[simp] theorem State.blocked_setFb (fb : Framebuffer) : (s.setFb fb).blocked = s.blocked := rfl
@[simp] theorem State.draws_setFb (fb : Framebuffer) : (s.setFb fb).draws = s.draws := rfl
@[simp] theorem State.reg_setFb (fb : Framebuffer) (r : RegIx) : (s.setFb fb).reg r = s.reg r := rfl

/-! ## setExtents -/

@[simp] theorem State.v_setExtents (w h : Nat) : (s.setExtents w h).v = s.v := rfl
@[simp] theorem State.i_setExtents (w h : Nat) : (s.setExtents w h).i = s.i := rfl
@[simp] theorem State.pc_setExtents (w h : Nat) : (s.setExtents w h).pc = s.pc := rfl
@[simp] theorem State.sp_setExtents (w h : Nat) : (s.setExtents w h).sp = s.sp := rfl
@[simp] theorem State.stack_setExtents (w h : Nat) : (s.setExtents w h).stack = s.stack := rfl
@[simp] theorem State.dt_setExtents (w h : Nat) : (s.setExtents w h).dt = s.dt := rfl
@[simp] theorem State.st_setExtents (w h : Nat) : (s.setExtents w h).st = s.st := rfl
@[simp] theorem State.skip_setExtents (w h : Nat) : (s.setExtents w h).skip = s.skip := rfl
@[simp] theorem State.acc_setExtents (w h : Nat) : (s.setExtents w h).acc = s.acc := rfl
@[simp] theorem State.keys_setExtents (w h : Nat) : (s.setExtents w h).keys = s.keys := rfl
@[simp] theorem State.run_setExtents (w h : Nat) : (s.setExtents w h).run = s.run := rfl
@[simp] theorem State.mem_setExtents (w h : Nat) : (s.setExtents w h).mem = s.mem := rfl
@[simp] theorem State.fb_setExtents (w h : Nat) : (s.setExtents w h).fb = s.fb := rfl
@[simp] theorem State.extents_setExtents (w h : Nat) : (s.setExtents w h).extents = some (w, h) := rfl
@[simp] theorem State.started_setExtents (w h : Nat) : (s.setExtents w h).started = s.started := rfl
@[simp] theorem State.blocked_setExtents (w h : Nat) : (s.setExtents w h).blocked = s.blocked := rfl
@[simp] theorem State.draws_setExtents (w h : Nat) : (s.setExtents w h).draws = s.draws := rfl
@[simp] theorem State.reg_setExtents (w h : Nat) (r : RegIx) : (s.setExtents w h).reg r = s.reg r := rfl

/-! ## setKeys -/

@[simp] theorem State.v_setKeys (k : BitVec 16) : (s.setKeys k).v = s.v := rfl
@[simp] theorem State.i_setKeys (k : BitVec 16) : (s.setKeys k).i = s.i := rfl
@[simp] theorem State.pc_setKeys (k : BitVec 16) : (s.setKeys k).pc = s.pc := rfl
@[simp] theorem State.sp_setKeys (k : BitVec 16) : (s.setKeys k).sp = s.sp := rfl
@[simp] theorem State.stack_setKeys (k : BitVec 16) : (s.setKeys k).stack = s.stack := rfl
@[simp] theorem State.dt_setKeys (k : BitVec 16) : (s.setKeys k).dt = s.dt := rfl
@[simp] theorem State.st_setKeys (k : BitVec 16) : (s.setKeys k).st = s.st := rfl
@[simp] theorem State.skip_setKeys (k : BitVec 16) : (s.setKeys k).skip = s.skip := rfl
@[simp] theorem State.acc_setKeys (k : BitVec 16) : (s.setKeys k).acc = s.acc := rfl
@[simp] theorem State.keys_setKeys (k : BitVec 16) : (s.setKeys k).keys = k := rfl
@[simp] theorem State.run_setKeys (k : BitVec 16) : (s.setKeys k).run = s.run := rfl
@[simp] theorem State.mem_setKeys (k : BitVec 16) : (s.setKeys k).mem = s.mem := rfl
@[simp] theorem State.fb_setKeys (k : BitVec 16) : (s.setKeys k).fb = s.fb := rfl
@[simp] theorem State.extents_setKeys (k : BitVec 16) : (s.setKeys k).extents = s.extents := rfl
@[simp] theorem State.started_setKeys (k : BitVec 16) : (s.setKeys k).started = s.started := rfl
@[simp] theorem State.blocked_setKeys (k : BitVec 16) : (s.setKeys k).blocked = s.blocked := rfl
@[simp] theorem State.draws_setKeys (k : BitVec 16) : (s.setKeys k).draws = s.draws := rfl
@[simp] theorem State.reg_setKeys (k : BitVec 16) (r : RegIx) : (s.setKeys k).reg r = s.reg r := rfl

/-! ## clearBlocked -/

@[simp] theorem State.v_clearBlocked : (s.clearBlocked).v = s.v := rfl
@[simp] theorem State.i_clearBlocked : (s.clearBlocked).i = s.i := rfl
@[simp] theorem State.pc_clearBlocked : (s.clearBlocked).pc = s.pc := rfl
@[simp] theorem State.sp_clearBlocked : (s.clearBlocked).sp = s.sp := rfl
@[simp] theorem State.stack_clearBlocked : (s.clearBlocked).stack = s.stack := rfl
@[simp] theorem State.dt_clearBlocked : (s.clearBlocked).dt = s.dt := rfl
@[simp] theorem State.st_clearBlocked : (s.clearBlocked).st = s.st := rfl
@[simp] theorem State.skip_clearBlocked : (s.clearBlocked).skip = s.skip := rfl
@[simp] theorem State.acc_clearBlocked : (s.clearBlocked).acc = s.acc := rfl
@[simp] theorem State.keys_clearBlocked : (s.clearBlocked).keys = s.keys := rfl
@[simp] theorem State.run_clearBlocked : (s.clearBlocked).run = s.run := rfl
@[simp] theorem State.mem_clearBlocked : (s.clearBlocked).mem = s.mem := rfl
@[simp] theorem State.fb_clearBlocked : (s.clearBlocked).fb = s.fb := rfl
@[simp] theorem State.extents_clearBlocked : (s.clearBlocked).extents = s.extents := rfl
@[simp] theorem State.started_clearBlocked : (s.clearBlocked).started = s.started := rfl
@[simp] theorem State.blocked_clearBlocked : (s.clearBlocked).blocked = 0 := rfl
@[simp] theorem State.draws_clearBlocked : (s.clearBlocked).draws = s.draws := rfl
@[simp] theorem State.reg_clearBlocked (r : RegIx) : (s.clearBlocked).reg r = s.reg r := rfl

/-! ## startLoop -/

@[simp] theorem State.v_startLoop : (s.startLoop).v = s.v := rfl
@[simp] theorem State.i_startLoop : (s.startLoop).i = s.i := rfl
@[simp] theorem State.pc_startLoop : (s.startLoop).pc = s.pc := rfl
@[simp] theorem State.sp_startLoop : (s.startLoop).sp = s.sp := rfl
@[simp] theorem State.stack_startLoop : (s.startLoop).stack = s.stack := rfl
@[simp] theorem State.dt_startLoop : (s.startLoop).dt = s.dt := rfl
@[simp] theorem State.st_startLoop : (s.startLoop).st = s.st := rfl
@[simp] theorem State.skip_startLoop : (s.startLoop).skip = s.skip := rfl
@[simp] theorem State.acc_startLoop : (s.startLoop).acc = s.acc := rfl
@[simp] theorem State.keys_startLoop : (s.startLoop).keys = s.keys := rfl
@[simp] theorem State.run_startLoop : (s.startLoop).run = s.run := rfl
@[simp] theorem State.mem_startLoop : (s.startLoop).mem = s.mem := rfl
@[simp] theorem State.fb_startLoop : (s.startLoop).fb = s.fb := rfl
@[simp] theorem State.extents_startLoop : (s.startLoop).extents = if s.started then s.extents else some (Config.displayW, Config.displayH) := rfl
@[simp] theorem State.started_startLoop : (s.startLoop).started = true := rfl
@[simp] theorem State.blocked_startLoop : (s.startLoop).blocked = s.blocked := rfl
@[simp] theorem State.draws_startLoop : (s.startLoop).draws = s.draws := rfl
@[simp] theorem State.reg_startLoop (r : RegIx) : (s.startLoop).reg r = s.reg r := rfl

/-! ## timersAdvance -/

@[simp] theorem State.v_timersAdvance (d : Rat) : (s.timersAdvance d).v = s.v := rfl
@[simp] theorem State.i_timersAdvance (d : Rat) : (s.timersAdvance d).i = s.i := rfl
@[simp] theorem State.pc_timersAdvance (d : Rat) : (s.timersAdvance d).pc = s.pc := rfl
@[simp] theorem State.sp_timersAdvance (d : Rat) : (s.timersAdvance d).sp = s.sp := rfl
@[simp] theorem State.stack_timersAdvance (d : Rat) : (s.timersAdvance d).stack = s.stack := rfl
@[simp] theorem State.dt_timersAdvance (d : Rat) : (s.timersAdvance d).dt = timerAfter s.dt (ticksIn (s.acc + d)) := rfl
@[simp] theorem State.st_timersAdvance (d : Rat) : (s.timersAdvance d).st = timerAfter s.st (ticksIn (s.acc + d)) := rfl
@[simp] theorem State.skip_timersAdvance (d : Rat) : (s.timersAdvance d).skip = s.skip := rfl
@[simp] theorem State.acc_timersAdvance (d : Rat) : (s.timersAdvance d).acc = s.acc + d - (ticksIn (s.acc + d) : Rat) * Config.tick := rfl
@[simp] theorem State.keys_timersAdvance (d : Rat) : (s.timersAdvance d).keys = s.keys := rfl
@[simp] theorem State.run_timersAdvance (d : Rat) : (s.timersAdvance d).run = s.run := rfl
@[simp] theorem State.mem_timersAdvance (d : Rat) : (s.timersAdvance d).mem = s.mem := rfl
@[simp] theorem State.fb_timersAdvance (d : Rat) : (s.timersAdvance d).fb = s.fb := rfl
@[simp] theorem State.extents_timersAdvance (d : Rat) : (s.timersAdvance d).extents = s.extents := rfl
@[simp] theorem State.started_timersAdvance (d : Rat) : (s.timersAdvance d).started = s.started := rfl
@[simp] theorem State.blocked_timersAdvance (d : Rat) : (s.timersAdvance d).blocked = s.blocked := rfl
@[simp] theorem State.draws_timersAdvance (d : Rat) : (s.timersAdvance d).draws = s.draws := rfl
@[simp] theorem State.reg_timersAdvance (d : Rat) (r : RegIx) : (s.timersAdvance d).reg r = s.reg r := rfl

end Sys2Proof.Machine
end

