-- ==== Sys2Proof/Laws/Draw.lean ====
section
/-! SUPPORT. What the display device does, pixel by pixel (spec/60_exceptions.md R278). -/

namespace Sys2Proof.Machine

/-- A toggle inverts one pixel and no other. -/
theorem pixel_togglePixel (fb : Framebuffer) (x y px py : Nat) :
    pixel (togglePixel fb x y) px py =
      (pixel fb px py ^^ (decide (px % 64 = x % 64) && decide (py % 32 = y % 32))) := by
  unfold pixel togglePixel
  have hx : px % 64 < 64 := Nat.mod_lt _ (by decide)
  have hx' : x % 64 < 64 := Nat.mod_lt _ (by decide)
  rw [Vector.getElem_set]
  by_cases hy : y % 32 = py % 32
  · have hy' : py % 32 = y % 32 := hy.symm
    simp only [hy, if_true, BitVec.getLsbD_xor, BitVec.getLsbD_shiftLeft, BitVec.getLsbD_one, decide_true, Bool.and_true]
    congr 1
    by_cases hpx : px % 64 = x % 64
    · simp [hpx, hx']
    · simp only [hpx, decide_false]
      by_cases hlt : px % 64 < x % 64
      · simp [hlt]
      · simp only [hx, decide_true, Bool.true_and, hlt, decide_false, Bool.not_false]
        simp; omega
  · have hy' : py % 32 ≠ y % 32 := fun e => hy e.symm
    simp [hy, hy']

/-- The bit of a row that falls on column `px`, for a row that starts at column `x`. -/
def rowBit (bs : List Bool) (x px : Nat) : Bool := bs.getD ((px + 64 - x % 64) % 64) false

theorem rowBit_nil (x px : Nat) : rowBit [] x px = false := by simp [rowBit]

theorem rowBit_cons (b : Bool) (bs : List Bool) (x px : Nat) :
    rowBit (b :: bs) x px = if px % 64 = x % 64 then b else rowBit bs (x + 1) px := by
  unfold rowBit
  split
  · next h => rw [show (px + 64 - x % 64) % 64 = 0 by omega]; rfl
  · next h =>
    rw [show (px + 64 - x % 64) % 64 = (px + 64 - (x + 1) % 64) % 64 + 1 by omega, List.getD_cons_succ]

theorem rowBit_succ_self (bs : List Bool) (x px : Nat) (hl : bs.length < 64) (h : px % 64 = x % 64) :
    rowBit bs (x + 1) px = false := by
  unfold rowBit
  rw [show (px + 64 - (x + 1) % 64) % 64 = 63 by omega, List.getD_eq_default _ _ (by omega)]

/-- The pixels after one row: inverted where the row has a set bit. -/
theorem pixel_drawRow (px py y : Nat) : ∀ (bs : List Bool) (x : Nat) (fb : Framebuffer) (c : Bool), bs.length ≤ 64 →
    pixel (drawRow x y bs (fb, c)).1 px py =
      (pixel fb px py ^^ (decide (py % 32 = y % 32) && rowBit bs x px))
  | [], x, fb, c, _ => by simp [drawRow, rowBit_nil]
  | b :: bs, x, fb, c, hl => by
    have hl' : bs.length < 64 := hl
    unfold drawRow
    rw [rowBit_cons b bs x px]
    cases b with
    | false =>
      simp only [Bool.false_eq_true, if_false]
      rw [pixel_drawRow px py y bs (x + 1) fb c (by omega)]
      split
      · next h => rw [rowBit_succ_self bs x px hl' h]
      · rfl
    | true =>
      simp only [if_true]
      rw [pixel_drawRow px py y bs (x + 1) _ _ (by omega), pixel_togglePixel]
      split
      · next h => rw [rowBit_succ_self bs x px hl' h]; simp [h]
      · next h => simp [h]

/-- One row collides when it inverts a pixel that was set before it. -/
theorem drawRow_collided (y : Nat) : ∀ (bs : List Bool) (x : Nat) (fb : Framebuffer) (c : Bool), bs.length ≤ 64 →
    ((drawRow x y bs (fb, c)).2 = true ↔
      c = true ∨ ∃ k < bs.length, bs.getD k false = true ∧ pixel fb (x + k) y = true)
  | [], x, fb, c, _ => by simp [drawRow]
  | b :: bs, x, fb, c, hl => by
    have hl' : bs.length + 1 ≤ 64 := hl
    unfold drawRow
    have split_k : (∃ k < (b :: bs).length, (b :: bs).getD k false = true ∧ pixel fb (x + k) y = true) ↔
        (b = true ∧ pixel fb x y = true) ∨
          ∃ k < bs.length, bs.getD k false = true ∧ pixel fb (x + 1 + k) y = true := by
      constructor
      · rintro ⟨k, hk, h1, h2⟩
        cases k with
        | zero => exact .inl ⟨h1, h2⟩
        | succ k => exact .inr ⟨k, by simpa using hk, by simpa using h1, by rwa [show x + 1 + k = x + (k + 1) by omega]⟩
      · rintro (⟨h1, h2⟩ | ⟨k, hk, h1, h2⟩)
        · exact ⟨0, by simp, h1, h2⟩
        · exact ⟨k + 1, by simpa using hk, by simpa using h1, by rwa [show x + (k + 1) = x + 1 + k by omega]⟩
    rw [split_k]
    cases b with
    | false =>
      simp only [Bool.false_eq_true, if_false, false_and, false_or]
      exact drawRow_collided y bs (x + 1) fb c (by omega)
    | true =>
      simp only [if_true, true_and]
      rw [drawRow_collided y bs (x + 1) _ _ (by omega)]
      have same : ∀ k < bs.length, pixel (togglePixel fb x y) (x + 1 + k) y = pixel fb (x + 1 + k) y := by
        intro k hk
        rw [pixel_togglePixel]
        have : (x + 1 + k) % 64 ≠ x % 64 := by omega
        simp [this]
      constructor
      · rintro (h | ⟨k, hk, h1, h2⟩)
        · simp only [Bool.or_eq_true] at h
          rcases h with h | h
          · exact .inl h
          · exact .inr (.inl h)
        · exact .inr (.inr ⟨k, hk, h1, by rwa [← same k hk]⟩)
      · rintro (h | h | ⟨k, hk, h1, h2⟩)
        · exact .inl (by simp [h])
        · exact .inl (by simp [h])
        · exact .inr ⟨k, hk, h1, by rwa [same k hk]⟩

/-- The bit of a grid that falls on the pixel `(px, py)`, for a grid whose corner is at `(x, y)`. -/
def gridBit (grid : List (List Bool)) (x y px py : Nat) : Bool :=
  rowBit (grid.getD ((py + 32 - y % 32) % 32) []) x px

theorem gridBit_nil (x y px py : Nat) : gridBit [] x y px py = false := by simp [gridBit, rowBit]

theorem gridBit_cons (row : List Bool) (rows : List (List Bool)) (x y px py : Nat) :
    gridBit (row :: rows) x y px py = if py % 32 = y % 32 then rowBit row x px else gridBit rows x (y + 1) px py := by
  unfold gridBit
  split
  · next h => rw [show (py + 32 - y % 32) % 32 = 0 by omega]; rfl
  · next h =>
    rw [show (py + 32 - y % 32) % 32 = (py + 32 - (y + 1) % 32) % 32 + 1 by omega, List.getD_cons_succ]

theorem gridBit_succ_self (rows : List (List Bool)) (x y px py : Nat) (hl : rows.length < 32)
    (h : py % 32 = y % 32) : gridBit rows x (y + 1) px py = false := by
  unfold gridBit
  rw [show (py + 32 - (y + 1) % 32) % 32 = 31 by omega, List.getD_eq_default _ _ (by omega), rowBit_nil]

/-- The pixels after a sprite: inverted where the grid has a set bit. -/
theorem pixel_drawGrid (px py x : Nat) : ∀ (grid : List (List Bool)) (y : Nat) (d : Framebuffer × Bool),
    grid.length ≤ 32 → (∀ row ∈ grid, row.length ≤ 64) →
    pixel (drawGrid x y grid d).1 px py = (pixel d.1 px py ^^ gridBit grid x y px py)
  | [], y, d, _, _ => by simp [drawGrid, gridBit_nil]
  | row :: rows, y, d, hl, hw => by
    have hl' : rows.length < 32 := hl
    unfold drawGrid
    rw [pixel_drawGrid px py x rows (y + 1) _ (by omega) (fun r hr => hw r (by simp [hr])),
      pixel_drawRow px py y row x d.1 d.2 (hw row (by simp)), gridBit_cons]
    split
    · next h => rw [gridBit_succ_self rows x y px py hl' h]; simp [h]
    · next h => simp [h]

/-- A sprite collides when it inverts a pixel that was set before the draw. -/
theorem drawGrid_collided (x : Nat) : ∀ (grid : List (List Bool)) (y : Nat) (d : Framebuffer × Bool),
    grid.length ≤ 32 → (∀ row ∈ grid, row.length ≤ 64) →
    ((drawGrid x y grid d).2 = true ↔ d.2 = true ∨ ∃ r < grid.length, ∃ c < (grid.getD r []).length,
      (grid.getD r []).getD c false = true ∧ pixel d.1 (x + c) (y + r) = true)
  | [], y, d, _, _ => by simp [drawGrid]
  | row :: rows, y, d, hl, hw => by
    have hl' : rows.length + 1 ≤ 32 := hl
    unfold drawGrid
    rw [drawGrid_collided x rows (y + 1) _ (by omega) (fun r hr => hw r (by simp [hr])),
      drawRow_collided y row x d.1 d.2 (hw row (by simp))]
    have same : ∀ r < rows.length, ∀ c, pixel (drawRow x y row (d.1, d.2)).1 (x + c) (y + 1 + r) =
        pixel d.1 (x + c) (y + 1 + r) := by
      intro r hr c
      rw [pixel_drawRow _ _ y row x d.1 d.2 (hw row (by simp))]
      have : (y + 1 + r) % 32 ≠ y % 32 := by omega
      simp [this]
    constructor
    · rintro ((h | ⟨k, hk, h1, h2⟩) | ⟨r, hr, c, hc, h1, h2⟩)
      · exact .inl h
      · exact .inr ⟨0, by simp, k, hk, h1, h2⟩
      · refine .inr ⟨r + 1, by simpa using hr, c, hc, h1, ?_⟩
        rw [show y + (r + 1) = y + 1 + r by omega, ← same r hr c]
        exact h2
    · rintro (h | ⟨r, hr, c, hc, h1, h2⟩)
      · exact .inl (.inl h)
      · cases r with
        | zero => exact .inl (.inr ⟨c, hc, h1, h2⟩)
        | succ r =>
          have hr' : r < rows.length := by simpa using hr
          refine .inr ⟨r, hr', c, hc, h1, ?_⟩
          rw [show y + (r + 1) = y + 1 + r by omega] at h2
          exact (same r hr' c).trans h2

theorem unpack_length (rows : List Byte) : (unpack rows).length = rows.length := by simp [unpack]

theorem unpack_row_length (rows : List Byte) : ∀ row ∈ unpack rows, row.length ≤ 64 := by
  intro row h
  obtain ⟨b, _, rfl⟩ := List.mem_map.1 h
  simp [unpackRow]

/-- Column `c` of an unpacked row is bit `7 - c` (R202). -/
theorem unpackRow_getD (b : Byte) (c : Nat) (h : c < 8) : (unpackRow b).getD c false = b.getLsbD (7 - c) := by
  rcases (by omega : c = 0 ∨ c = 1 ∨ c = 2 ∨ c = 3 ∨ c = 4 ∨ c = 5 ∨ c = 6 ∨ c = 7) with
    rfl | rfl | rfl | rfl | rfl | rfl | rfl | rfl <;> rfl

/-- Two framebuffers with the same pixels are the same data. -/
theorem Framebuffer.ext_pixel {a b : Framebuffer} (h : ∀ px < 64, ∀ py < 32, pixel a px py = pixel b px py) : a = b := by
  apply Vector.ext
  intro py hpy
  apply BitVec.eq_of_getLsbD_eq
  intro px hpx
  have := h px hpx py hpy
  unfold pixel at this
  simpa only [Nat.mod_eq_of_lt hpx, Nat.mod_eq_of_lt hpy] using this

/-- The unpacked rows of a sprite as a set of pixels (spec/44_draw.md R202). -/
theorem gridBit_unpack (rows : List Byte) (x y px py : Nat) :
    gridBit (unpack rows) x y px py = spriteCovers rows x y px py := by
  unfold gridBit spriteCovers rowBit
  simp only
  generalize (py + 32 - y % 32) % 32 = r
  generalize (px + 64 - x % 64) % 64 = c
  by_cases hr : r < rows.length
  · rw [show (unpack rows).getD r [] = unpackRow (rows.getD r 0) by simp [unpack, List.getD, hr]]
    by_cases hc : c < 8
    · rw [unpackRow_getD _ _ hc]; simp [hr, hc]
    · rw [List.getD_eq_default _ _ (by simp [unpackRow]; omega)]; simp [hc]
  · rw [show (unpack rows).getD r [] = [] from List.getD_eq_default _ _ (by rw [unpack_length]; omega)]
    simp [hr]

/-- The pixels a sprite leaves: those it covers are inverted and no others. -/
theorem pixel_drawSprite (fb : Framebuffer) (rows : List Byte) (x y px py : Nat) (h : rows.length ≤ 32) :
    pixel (drawSprite fb x y (unpack rows)).1 px py = (pixel fb px py ^^ spriteCovers rows x y px py) := by
  unfold drawSprite
  rw [pixel_drawGrid _ _ _ _ _ _ (by rwa [unpack_length]) (unpack_row_length rows), gridBit_unpack]

/-- A sprite collides exactly when a pixel it covers was set. -/
theorem drawSprite_collided (fb : Framebuffer) (rows : List Byte) (x y : Nat) (h : rows.length ≤ 32) :
    (drawSprite fb x y (unpack rows)).2 = true ↔
      ∃ px < 64, ∃ py < 32, spriteCovers rows x y px py = true ∧ pixel fb px py = true := by
  unfold drawSprite
  rw [drawGrid_collided x _ y _ (by rwa [unpack_length]) (unpack_row_length rows)]
  simp only [Bool.false_eq_true, false_or, ← gridBit_unpack]
  unfold gridBit rowBit
  constructor
  · rintro ⟨r, hr, c, hc, hb, hp⟩
    refine ⟨(x + c) % 64, Nat.mod_lt _ (by decide), (y + r) % 32, Nat.mod_lt _ (by decide), ?_, ?_⟩
    · rw [unpack_length] at hr
      have hl : ((unpack rows).getD r []).length = 8 := by simp [unpack, List.getD, hr, unpackRow]
      rw [show ((y + r) % 32 + 32 - y % 32) % 32 = r by omega, show ((x + c) % 64 + 64 - x % 64) % 64 = c by omega]
      exact hb
    · simpa [pixel] using hp
  · rintro ⟨px, hpx, py, hpy, hb, hp⟩
    have h1 : (py + 32 - y % 32) % 32 < (unpack rows).length := by
      by_contra hn; rw [List.getD_eq_default (unpack rows) _ (by omega)] at hb; simp at hb
    have h2 : (px + 64 - x % 64) % 64 < ((unpack rows).getD ((py + 32 - y % 32) % 32) []).length := by
      by_contra hn; rw [List.getD_eq_default _ false (by omega)] at hb; simp at hb
    refine ⟨_, h1, _, h2, hb, ?_⟩
    rw [← hp]; unfold pixel
    congr 1
    · congr 1; omega
    · omega

end Sys2Proof.Machine
end

