-- ==== Sys2Proof/Laws/Encoding.lean ====
section
/-! SUPPORT. The fields of the words an encoder puts together, and that a word is its four fields (spec/30_encoding.md R81,
R90). With these a decoder's tests on an encoded word come down to the fields. -/

namespace Sys2Proof

section
variable (a b c d : Nibble) (nn : Byte) (nnn : Imm12)

theorem n0_word4 : n0 (word4 a b c d) = a := by
  apply BitVec.eq_of_getLsbD_eq
  intro i hi
  interval_cases i <;> simp [n0, word4]

theorem n1_word4 : n1 (word4 a b c d) = b := by
  apply BitVec.eq_of_getLsbD_eq
  intro i hi
  interval_cases i <;> simp [n1, word4]

theorem n2_word4 : n2 (word4 a b c d) = c := by
  apply BitVec.eq_of_getLsbD_eq
  intro i hi
  interval_cases i <;> simp [n2, word4]

theorem n3_word4 : n3 (word4 a b c d) = d := by
  apply BitVec.eq_of_getLsbD_eq
  intro i hi
  interval_cases i <;> simp [n3, word4]

theorem n0_wordX8 : n0 (wordX8 a b nn) = a := by
  apply BitVec.eq_of_getLsbD_eq
  intro i hi
  interval_cases i <;> simp [n0, wordX8]

theorem n1_wordX8 : n1 (wordX8 a b nn) = b := by
  apply BitVec.eq_of_getLsbD_eq
  intro i hi
  interval_cases i <;> simp [n1, wordX8]

theorem nnOf_wordX8 : nnOf (wordX8 a b nn) = nn := by
  apply BitVec.eq_of_getLsbD_eq
  intro i hi
  interval_cases i <;> simp [nnOf, wordX8]

theorem n0_word12 : n0 (word12 a nnn) = a := by
  apply BitVec.eq_of_getLsbD_eq
  intro i hi
  interval_cases i <;> simp [n0, word12]

theorem nnnOf_word12 : nnnOf (word12 a nnn) = nnn := by
  apply BitVec.eq_of_getLsbD_eq
  intro i hi
  interval_cases i <;> simp [nnnOf, word12]

end

theorem toFin_nibbleOf (x : RegIx) : (nibbleOf x).toFin = x := rfl
theorem nibbleOf_toFin (n : Nibble) : nibbleOf n.toFin = n := rfl
theorem nibbleOf_xOf (w : Word) : nibbleOf (xOf w) = n1 w := rfl
theorem nibbleOf_yOf (w : Word) : nibbleOf (yOf w) = n2 w := rfl

theorem xOf_word4 (a d : Nibble) (x y : RegIx) : xOf (word4 a (nibbleOf x) (nibbleOf y) d) = x := by
  rw [xOf, n1_word4, toFin_nibbleOf]
theorem yOf_word4 (a d : Nibble) (x y : RegIx) : yOf (word4 a (nibbleOf x) (nibbleOf y) d) = y := by
  rw [yOf, n2_word4, toFin_nibbleOf]
theorem xOf_wordX8 (a : Nibble) (x : RegIx) (nn : Byte) : xOf (wordX8 a (nibbleOf x) nn) = x := by
  rw [xOf, n1_wordX8, toFin_nibbleOf]

/-- A word is its four nibbles. -/
theorem word4_fields (w : Word) : word4 (n0 w) (n1 w) (n2 w) (n3 w) = w := by
  apply BitVec.eq_of_getLsbD_eq
  intro i hi
  interval_cases i <;> simp [n0, n1, n2, n3, word4]

/-- A word is its family, X and NN. -/
theorem wordX8_fields (w : Word) : wordX8 (n0 w) (n1 w) (nnOf w) = w := by
  apply BitVec.eq_of_getLsbD_eq
  intro i hi
  interval_cases i <;> simp [n0, n1, nnOf, wordX8]

/-- A word is its family and NNN. -/
theorem word12_fields (w : Word) : word12 (n0 w) (nnnOf w) = w := by
  apply BitVec.eq_of_getLsbD_eq
  intro i hi
  interval_cases i <;> simp [n0, nnnOf, word12]

/-- A word is its two bytes, the high one first (spec/20_memory.md R58). -/
theorem wordOfBytes_bytes (w : Word) : wordOfBytes (highByte w) (lowByte w) = w := by
  apply BitVec.eq_of_getLsbD_eq
  intro i hi
  interval_cases i <;> simp [wordOfBytes, highByte, lowByte]

/-! ## The masks of the opcode map, by fields -/

theorem and_f000 (w : Word) : w &&& 0xF000 = word4 (n0 w) 0 0 0 := by
  apply BitVec.eq_of_getLsbD_eq
  intro i hi
  interval_cases i <;> simp [n0, word4]

theorem and_f00f (w : Word) : w &&& 0xF00F = word4 (n0 w) 0 0 (n3 w) := by
  apply BitVec.eq_of_getLsbD_eq
  intro i hi
  interval_cases i <;> simp [n0, n3, word4]

theorem and_f0ff (w : Word) : w &&& 0xF0FF = wordX8 (n0 w) 0 (nnOf w) := by
  apply BitVec.eq_of_getLsbD_eq
  intro i hi
  interval_cases i <;> simp [n0, nnOf, wordX8]

end Sys2Proof
end

