-- ==== Sys2Proof/Laws/Memory.lean ====
section
/-! SUPPORT. The laws of memory: a read after a write, the canonical form and that every operation keeps it, and what
the reads and writes of several bytes can do. -/

namespace Sys2Proof.Machine

/-! ## One byte -/

theorem Memory.read_cons (c : Nat) (w : Byte) (m : Memory) (a : Nat) :
    Memory.read ((c, w) :: m) a = if a = c then w else m.read a := rfl

/-- Below the first address a canonical memory can list, every byte is 0. -/
theorem Memory.read_of_lt {lo a : Nat} : ∀ {m : Memory}, Memory.wfFrom lo m = true → a < lo → m.read a = 0
  | [], _, _ => rfl
  | (c, w) :: m, h, ha => by
    simp only [Memory.wfFrom, Bool.and_eq_true, decide_eq_true_eq] at h
    have : a ≠ c := by omega
    rw [Memory.read_cons, if_neg this]
    exact Memory.read_of_lt h.2 (by omega)

theorem Memory.wfFrom_mono {lo lo' : Nat} (hl : lo' ≤ lo) : ∀ {m : Memory}, Memory.wfFrom lo m = true → Memory.wfFrom lo' m = true
  | [], _ => rfl
  | (c, w) :: m, h => by
    simp only [Memory.wfFrom, Bool.and_eq_true, decide_eq_true_eq] at h ⊢
    exact ⟨⟨⟨by omega, h.1.1.2⟩, h.1.2⟩, h.2⟩

/-- A read after a write, in a memory of canonical form: the byte written there, and the old byte elsewhere. -/
theorem Memory.read_write {lo : Nat} (a b : Nat) (v : Byte) :
    ∀ {m : Memory}, Memory.wfFrom lo m = true → (m.write a v).read b = if b = a then v else m.read b
  | [], _ => by
    unfold Memory.write Memory.cons
    split <;> simp_all [Memory.read]
  | (c, w) :: m, h => by
    have h' := h
    simp only [Memory.wfFrom, Bool.and_eq_true, decide_eq_true_eq] at h'
    have hlt : ∀ x, x ≤ c → Memory.read m x = 0 := fun x hx => Memory.read_of_lt h'.2 (by omega)
    unfold Memory.write Memory.cons
    split
    · next hac =>
      split
      · next hv =>
        subst hv
        simp only [Memory.read_cons]
        split_ifs <;> first | omega | rfl | exact hlt _ (by omega)
      · simp only [Memory.read_cons]
    · split
      · next hac =>
        subst hac
        split
        · next hv => subst hv; simp only [Memory.read_cons]; split_ifs <;> simp_all
        · simp only [Memory.read_cons]; split_ifs <;> simp_all
      · next h1 h2 =>
        simp only [Memory.read_cons]
        rw [Memory.read_write a b v h'.2]
        split_ifs <;> first | rfl | omega

theorem Memory.read_write_same {lo : Nat} {m : Memory} (h : Memory.wfFrom lo m = true) (a : Nat) (v : Byte) :
    (m.write a v).read a = v := by
  rw [Memory.read_write a a v h, if_pos rfl]

theorem Memory.read_write_of_ne {lo : Nat} {m : Memory} (h : Memory.wfFrom lo m = true) {a b : Nat} (hb : b ≠ a)
    (v : Byte) : (m.write a v).read b = m.read b := by
  rw [Memory.read_write a b v h, if_neg hb]

/-! ## The canonical form -/

theorem Memory.wfFrom_write {a : Nat} (v : Byte) (ha : a < Config.base + Config.memSize) :
    ∀ {lo : Nat} {m : Memory}, lo ≤ a → Memory.wfFrom lo m = true → Memory.wfFrom lo (m.write a v) = true
  | lo, [], hl, _ => by
    unfold Memory.write Memory.cons
    split <;> simp_all [Memory.wfFrom]
  | lo, (c, w) :: m, hl, h => by
    have h' := h
    simp only [Memory.wfFrom, Bool.and_eq_true, decide_eq_true_eq] at h'
    unfold Memory.write Memory.cons
    split
    · next hac =>
      split
      · exact h
      · simp only [Memory.wfFrom, Bool.and_eq_true, decide_eq_true_eq, bne_iff_ne, ne_eq]
        exact ⟨⟨⟨hl, ha⟩, by assumption⟩, ⟨⟨by omega, h'.1.1.2⟩, by simpa using h'.1.2⟩, h'.2⟩
    · split
      · next hac =>
        subst hac
        split
        · exact Memory.wfFrom_mono (by omega) h'.2
        · simp only [Memory.wfFrom, Bool.and_eq_true, decide_eq_true_eq, bne_iff_ne, ne_eq]
          exact ⟨⟨⟨hl, ha⟩, by assumption⟩, h'.2⟩
      · next h1 h2 =>
        simp only [Memory.wfFrom, Bool.and_eq_true, decide_eq_true_eq]
        exact ⟨h'.1, Memory.wfFrom_write v ha (by omega) h'.2⟩

/-- A write inside the window keeps the canonical form. -/
theorem Memory.wf_write {m : Memory} {a : Nat} (v : Byte) (ha : InWindow a) (h : m.wf = true) : (m.write a v).wf = true :=
  Memory.wfFrom_write v ha.2 ha.1 h

theorem Memory.wfFrom_ext : ∀ {lo : Nat} {m n : Memory}, Memory.wfFrom lo m = true → Memory.wfFrom lo n = true →
    (∀ a, m.read a = n.read a) → m = n
  | _, [], [], _, _, _ => rfl
  | _, [], (c, w) :: n, _, hn, h => by
    simp only [Memory.wfFrom, Bool.and_eq_true, bne_iff_ne] at hn
    exact absurd (by simpa [Memory.read] using (h c).symm) hn.1.2
  | _, (c, w) :: m, [], hm, _, h => by
    simp only [Memory.wfFrom, Bool.and_eq_true, bne_iff_ne] at hm
    exact absurd (by simpa [Memory.read] using h c) hm.1.2
  | lo, (c, w) :: m, (d, u) :: n, hm, hn, h => by
    simp only [Memory.wfFrom, Bool.and_eq_true, decide_eq_true_eq, bne_iff_ne] at hm hn
    have hcd : c = d := by
      rcases Nat.lt_trichotomy c d with hlt | heq | hgt
      · have := h c
        rw [Memory.read_cons, if_pos rfl, Memory.read_cons, if_neg (by omega), Memory.read_of_lt hn.2 (by omega)] at this
        exact absurd this hm.1.2
      · exact heq
      · have := h d
        rw [Memory.read_cons, if_neg (by omega), Memory.read_cons, if_pos rfl, Memory.read_of_lt hm.2 (by omega)] at this
        exact absurd this.symm hn.1.2
    subst hcd
    have hwu : w = u := by simpa [Memory.read_cons] using h c
    subst hwu
    have : m = n := Memory.wfFrom_ext hm.2 hn.2 fun a => by
      by_cases hac : a = c
      · subst hac; rw [Memory.read_of_lt hm.2 (by omega), Memory.read_of_lt hn.2 (by omega)]
      · simpa [Memory.read_cons, hac] using h a
    rw [this]

/-- Two memories of canonical form that read alike are the same data. -/
theorem Memory.ext_of_wf {m n : Memory} (hm : m.wf = true) (hn : n.wf = true) (h : ∀ a, m.read a = n.read a) : m = n :=
  Memory.wfFrom_ext hm hn h

/-! ## Checked accesses -/

theorem memRead_ok {m : Memory} {a : Nat} (h : InWindow a) : memRead m a = .ok (m.read a) := if_pos h

theorem memRead_error {m : Memory} {a : Nat} (h : ¬ InWindow a) : memRead m a = .error (invalidAddress a) := if_neg h

theorem memWrite_ok {m : Memory} {a : Nat} (b : Byte) (h : InWindow a) : memWrite m a b = .ok (m.write a b) := if_pos h

theorem memWrite_error {m : Memory} {a : Nat} (b : Byte) (h : ¬ InWindow a) :
    memWrite m a b = .error (invalidAddress a) := if_neg h

/-- `readBytes` answers the bytes of the run, when all of it is in the window. -/
theorem readBytes_ok (m : Memory) : ∀ (n a : Nat), (∀ k < n, InWindow (a + k)) →
    readBytes m a n = .ok ((List.range n).map fun k => m.read (a + k))
  | 0, _, _ => rfl
  | n + 1, a, h => by
    have h0 : InWindow a := h 0 (by omega)
    have hr := readBytes_ok m n (a + 1) fun k hk => by
      have := h (k + 1) (by omega)
      rwa [show a + 1 + k = a + (k + 1) by omega]
    simp only [readBytes, memRead_ok h0, hr, List.range_succ_eq_map, List.map_cons, List.map_map, Nat.add_zero]
    congr 2
    refine List.map_congr_left fun k _ => ?_
    simp only [Function.comp]
    congr 1
    omega

/-- `readBytes` raises at the first address outside the window. -/
theorem readBytes_error (m : Memory) : ∀ (n a j : Nat), j < n → (∀ k < j, InWindow (a + k)) → ¬ InWindow (a + j) →
    readBytes m a n = .error (invalidAddress (a + j))
  | n + 1, a, 0, _, _, hj => by simp only [readBytes]; rw [memRead_error (by simpa using hj)]; rfl
  | n + 1, a, j + 1, hjn, h, hj => by
    have h0 : InWindow a := h 0 (by omega)
    have hr := readBytes_error m n (a + 1) j (by omega)
      (fun k hk => by have := h (k + 1) (by omega); rwa [show a + 1 + k = a + (k + 1) by omega])
      (by rwa [show a + 1 + j = a + (j + 1) by omega])
    simp only [readBytes, memRead_ok h0, hr]
    congr 2
    omega

/-- Everything `readBytes` can do: all bytes of the run, or `InvalidAddress` of its first address outside the window. -/
theorem readBytes_cases (m : Memory) (n a : Nat) :
    (∀ k < n, InWindow (a + k)) ∧ readBytes m a n = .ok ((List.range n).map fun k => m.read (a + k)) ∨
    ∃ j < n, (∀ k < j, InWindow (a + k)) ∧ ¬ InWindow (a + j) ∧
      readBytes m a n = .error (invalidAddress (a + j)) := by
  classical
  by_cases h : ∀ k < n, InWindow (a + k)
  · exact .inl ⟨h, readBytes_ok m n a h⟩
  · have hex : ∃ j, j < n ∧ ¬ InWindow (a + j) := by
      by_contra hc
      exact h fun k hk => by_contra fun hk' => hc ⟨k, hk, hk'⟩
    refine .inr ⟨Nat.find hex, (Nat.find_spec hex).1, ?_, (Nat.find_spec hex).2, ?_⟩
    · intro k hk
      by_contra hk'
      exact Nat.find_min hex hk ⟨hk.trans (Nat.find_spec hex).1, hk'⟩
    · refine readBytes_error m n a _ (Nat.find_spec hex).1 (fun k hk => ?_) (Nat.find_spec hex).2
      by_contra hk'
      exact Nat.find_min hex hk ⟨hk.trans (Nat.find_spec hex).1, hk'⟩

theorem readBytes_length {m : Memory} : ∀ {n a : Nat} {bs : List Byte}, readBytes m a n = .ok bs → bs.length = n
  | 0, _, _, h => by cases h; rfl
  | n + 1, a, bs, h => by
    simp only [readBytes] at h
    split at h
    · cases h
    · split at h
      · cases h
      · next h' => cases h; simp [readBytes_length h']

/-- A successful `writeBytes` keeps the canonical form and writes exactly the bytes of the run. -/
theorem writeBytes_spec {lo : Nat} : ∀ {bs : List Byte} {m m' : Memory} {a : Nat}, lo ≤ Config.base →
    Memory.wfFrom lo m = true → writeBytes m a bs = .ok m' →
    Memory.wfFrom lo m' = true ∧
      ∀ b, m'.read b = if h : a ≤ b ∧ b < a + bs.length then bs[b - a]'(by omega) else m.read b
  | [], m, m', a, _, hm, h => by
    cases h
    refine ⟨hm, fun b => ?_⟩
    rw [dif_neg (by simp only [List.length_nil]; omega)]
  | v :: bs, m, m', a, hlo, hm, h => by
    simp only [writeBytes] at h
    by_cases ha : InWindow a
    · rw [memWrite_ok v ha] at h
      have hw := Memory.wfFrom_write v ha.2 (hlo.trans ha.1) hm
      obtain ⟨h1, h2⟩ := writeBytes_spec hlo hw h
      refine ⟨h1, fun b => ?_⟩
      rw [h2 b, Memory.read_write a b v hm]
      rcases Nat.lt_trichotomy b a with hb | hb | hb
      · rw [dif_neg (by omega), dif_neg (by omega), if_neg (by omega)]
      · subst hb
        rw [dif_neg (by omega), dif_pos ⟨le_refl _, by simp⟩, if_pos rfl]
        simp
      · by_cases hr : b < a + 1 + bs.length
        · rw [dif_pos ⟨by omega, hr⟩, dif_pos ⟨by omega, by simp only [List.length_cons]; omega⟩]
          simp only [show b - a = (b - (a + 1)) + 1 by omega, List.getElem_cons_succ]
        · rw [dif_neg (by omega), dif_neg (by simp only [List.length_cons]; omega), if_neg (by omega)]
    · rw [memWrite_error v ha] at h; cases h

/-- `writeBytes` succeeds when all of the run is in the window. -/
theorem writeBytes_ok : ∀ (bs : List Byte) (m : Memory) (a : Nat), (∀ k < bs.length, InWindow (a + k)) →
    ∃ m', writeBytes m a bs = .ok m'
  | [], m, _, _ => ⟨m, rfl⟩
  | v :: bs, m, a, h => by
    have h0 : InWindow a := h 0 (by simp)
    obtain ⟨m', hm'⟩ := writeBytes_ok bs (m.write a v) (a + 1) fun k hk => by
      have := h (k + 1) (by simpa using hk)
      rwa [show a + 1 + k = a + (k + 1) by omega]
    exact ⟨m', by simp only [writeBytes, memWrite_ok v h0]; exact hm'⟩

/-- `writeBytes` raises at the first address outside the window. -/
theorem writeBytes_error : ∀ (bs : List Byte) (m : Memory) (a j : Nat), j < bs.length → (∀ k < j, InWindow (a + k)) →
    ¬ InWindow (a + j) → writeBytes m a bs = .error (invalidAddress (a + j))
  | v :: bs, m, a, 0, _, _, hj => by simp only [writeBytes]; rw [memWrite_error v (by simpa using hj)]; rfl
  | v :: bs, m, a, j + 1, hjn, h, hj => by
    have h0 : InWindow a := h 0 (by omega)
    have hr := writeBytes_error bs (m.write a v) (a + 1) j (by simpa using hjn)
      (fun k hk => by have := h (k + 1) (by omega); rwa [show a + 1 + k = a + (k + 1) by omega])
      (by rwa [show a + 1 + j = a + (j + 1) by omega])
    simp only [writeBytes, memWrite_ok v h0, hr]
    congr 2
    omega

/-- Copying an image that fits keeps the canonical form and writes exactly its bytes. -/
theorem copyImage_spec : ∀ (img : List Byte) (m : Memory) (a : Nat), Config.base ≤ a →
    a + img.length ≤ Config.base + Config.memSize → m.wf = true →
    (copyImage m a img).wf = true ∧
      ∀ b, (copyImage m a img).read b = if h : a ≤ b ∧ b < a + img.length then img[b - a]'(by omega) else m.read b
  | [], m, a, _, _, hm => by
    refine ⟨hm, fun b => ?_⟩
    rw [dif_neg (by simp only [List.length_nil]; omega)]; rfl
  | v :: img, m, a, ha, hl, hm => by
    simp only [List.length_cons] at hl
    have hw : (m.write a v).wf = true := Memory.wf_write v ⟨ha, by omega⟩ hm
    obtain ⟨h1, h2⟩ := copyImage_spec img (m.write a v) (a + 1) (by omega) (by omega) hw
    refine ⟨h1, fun b => ?_⟩
    have e : copyImage m a (v :: img) = copyImage (m.write a v) (a + 1) img := rfl
    rw [e, h2 b, Memory.read_write a b v hm]
    rcases Nat.lt_trichotomy b a with hb | hb | hb
    · rw [dif_neg (by omega), dif_neg (by omega), if_neg (by omega)]
    · subst hb
      rw [dif_neg (by omega), dif_pos ⟨le_refl _, by simp⟩, if_pos rfl]
      simp
    · by_cases hr : b < a + 1 + img.length
      · rw [dif_pos ⟨by omega, hr⟩, dif_pos ⟨by omega, by simp only [List.length_cons]; omega⟩]
        simp only [show b - a = (b - (a + 1)) + 1 by omega, List.getElem_cons_succ]
      · rw [dif_neg (by omega), dif_neg (by simp only [List.length_cons]; omega), if_neg (by omega)]

end Sys2Proof.Machine
end

