-- ==== Sys2Proof/Laws/Ops.lean ====
section
/-! SUPPORT. What each shared operation can do, said once: the PC check, the advance, raising, the call stack, the operand
forms. -/

namespace Sys2Proof.Machine

/-! ## Raising -/

section raise
variable (op : Option Word) (s0 s1 : State) (r : Raised)

@[simp] theorem raise_run : (raise op s0 s1 r).run = .halted ⟨r.kind, s0.pc, op, r.info⟩ := rfl
@[simp] theorem raise_v : (raise op s0 s1 r).v = s0.v := rfl
@[simp] theorem raise_reg (x : RegIx) : (raise op s0 s1 r).reg x = s0.reg x := rfl
@[simp] theorem raise_i : (raise op s0 s1 r).i = s0.i := rfl
@[simp] theorem raise_pc : (raise op s0 s1 r).pc = s0.pc := rfl
@[simp] theorem raise_sp : (raise op s0 s1 r).sp = s0.sp := rfl
@[simp] theorem raise_stack : (raise op s0 s1 r).stack = s0.stack := rfl
@[simp] theorem raise_dt : (raise op s0 s1 r).dt = s0.dt := rfl
@[simp] theorem raise_st : (raise op s0 s1 r).st = s0.st := rfl
@[simp] theorem raise_skip : (raise op s0 s1 r).skip = s0.skip := rfl
@[simp] theorem raise_acc : (raise op s0 s1 r).acc = s0.acc := rfl
@[simp] theorem raise_keys : (raise op s0 s1 r).keys = s0.keys := rfl
@[simp] theorem raise_mem : (raise op s0 s1 r).mem = s0.mem := rfl
@[simp] theorem raise_fb : (raise op s0 s1 r).fb = s1.fb := rfl
@[simp] theorem raise_extents : (raise op s0 s1 r).extents = s0.extents := rfl
@[simp] theorem raise_started : (raise op s0 s1 r).started = s0.started := rfl
@[simp] theorem raise_blocked : (raise op s0 s1 r).blocked = s0.blocked := rfl
@[simp] theorem raise_draws : (raise op s0 s1 r).draws = s1.draws := rfl

end raise

/-! ## The PC check and the advance -/

/-- An address of the window is its own 16-bit value. -/
theorem toNat_ofNat_of_inWindow {t : Nat} (h : InWindow t) : (BitVec.ofNat 16 t).toNat = t := by
  have : t < Config.base + Config.memSize := h.2
  simp only [Config.base, Config.memSize] at this
  simp only [BitVec.toNat_ofNat]
  omega

/-- The PC after an advance is in the window. -/
theorem toNat_pc_add_two {pc : Word} (h : InWindow (pc.toNat + 2)) : (pc + 2).toNat = pc.toNat + 2 := by
  have : pc.toNat + 2 < Config.base + Config.memSize := h.2
  simp only [Config.base, Config.memSize] at this
  have h2 : (2 : Word).toNat = 2 := rfl
  rw [BitVec.toNat_add, h2]
  omega

theorem checkPc_ok {t : Nat} (h : InWindow t) : checkPc t = .ok (BitVec.ofNat 16 t) := if_pos h

theorem checkPc_error {t : Nat} (h : ¬ InWindow t) : checkPc t = .error (invalidAddress t) := if_neg h

section pc
variable (op : Option Word) (s0 s1 : State)

theorem writePc_ok {t : Nat} (h : InWindow t) : writePc op s0 s1 t = s1.setPc (BitVec.ofNat 16 t) := by
  unfold writePc; rw [checkPc_ok h]

theorem writePc_error {t : Nat} (h : ¬ InWindow t) : writePc op s0 s1 t = raise op s0 s1 (invalidAddress t) := by
  unfold writePc; rw [checkPc_error h]

/-- Everything a checked PC write can do. -/
theorem writePc_cases (t : Nat) :
    InWindow t ∧ writePc op s0 s1 t = s1.setPc (BitVec.ofNat 16 t) ∨
    ¬ InWindow t ∧ writePc op s0 s1 t = raise op s0 s1 (invalidAddress t) := by
  by_cases h : InWindow t
  · exact .inl ⟨h, writePc_ok op s0 s1 h⟩
  · exact .inr ⟨h, writePc_error op s0 s1 h⟩

theorem advance_ok (h : InWindow (s1.pc.toNat + 2)) : advance op s0 s1 = s1.setPc (s1.pc + 2) := by
  unfold advance Config.insnBytes
  rw [writePc_ok op s0 s1 h]
  congr 1

theorem advance_error (h : ¬ InWindow (s1.pc.toNat + 2)) :
    advance op s0 s1 = raise op s0 s1 (invalidAddress (s1.pc.toNat + 2)) :=
  writePc_error op s0 s1 h

/-- Everything the advance can do. -/
theorem advance_cases :
    InWindow (s1.pc.toNat + 2) ∧ advance op s0 s1 = s1.setPc (s1.pc + 2) ∨
    ¬ InWindow (s1.pc.toNat + 2) ∧ advance op s0 s1 = raise op s0 s1 (invalidAddress (s1.pc.toNat + 2)) := by
  by_cases h : InWindow (s1.pc.toNat + 2)
  · exact .inl ⟨h, advance_ok op s0 s1 h⟩
  · exact .inr ⟨h, advance_error op s0 s1 h⟩

theorem tryAdvance_error (r : Raised) : tryAdvance op s0 (.error r) = raise op s0 s0 r := rfl

theorem tryAdvance_ok : tryAdvance op s0 (.ok s1) = advance op s0 s1 := rfl

/-- Everything a handler that may raise can end in. -/
theorem tryAdvance_cases (h : Except Raised State) :
    (∃ r, h = .error r ∧ tryAdvance op s0 h = raise op s0 s0 r) ∨
    (∃ s1, h = .ok s1 ∧ tryAdvance op s0 h = advance op s0 s1) := by
  cases h with
  | error r => exact .inl ⟨r, rfl, rfl⟩
  | ok s1 => exact .inr ⟨s1, rfl, rfl⟩

end pc

/-! ## The call stack -/

theorem State.push_ok (s : State) (w : Word) (h : s.sp.val < 16) :
    s.push w = .ok { s with stack := s.stack.set s.sp.val w h, sp := ⟨s.sp.val + 1, by omega⟩ } := dif_pos h

theorem State.push_error (s : State) (w : Word) (h : ¬ s.sp.val < 16) : s.push w = .error ⟨.stackOverflow, .none⟩ :=
  dif_neg h

theorem State.popPc_ok (s : State) (h : s.sp.val ≠ 0) :
    s.popPc = .ok { s with pc := s.stack[s.sp.val - 1]'(by omega), sp := ⟨s.sp.val - 1, by omega⟩ } := dif_neg h

theorem State.popPc_error (s : State) (h : s.sp.val = 0) : s.popPc = .error ⟨.stackUnderflow, .none⟩ := dif_pos h

/-! ## Operand forms -/

theorem keyCheck_ok {k : Byte} (h : k.toNat ≤ 15) : keyCheck k = .ok k := if_neg (by omega)

theorem keyCheck_error {k : Byte} (h : 15 < k.toNat) : keyCheck k = .error ⟨.keyRange, .value k⟩ := if_pos h

theorem glyphAddress_ok (g : Nat) {d : Byte} (h : d.toNat ≤ 15) :
    glyphAddress g d = .ok (BitVec.ofNat 16 (g + d.toNat)) := if_neg (by omega)

theorem glyphAddress_error (g : Nat) {d : Byte} (h : 15 < d.toNat) :
    glyphAddress g d = .error ⟨.glyphRange, .glyph d.toNat 0⟩ := if_pos h

/-- GLYPH_BASE leaves room for 16 glyphs below BASE (spec/00_scope.md R2). -/
theorem glyphBase_bound : Config.glyphBase + 16 ≤ Config.base := by
  have := Config.glyphBaseBounded.isLt
  simp only [Config.glyphBase, Config.base]
  omega

theorem glyphRead_ok (font : Font) {g r : Nat} (hg : g < 16) (hr : r < 5) :
    glyphRead font g r = .ok (font[g][r]) := dif_pos ⟨hg, hr⟩

theorem glyphRead_error (font : Font) {g r : Nat} (h : ¬ (g < 16 ∧ r < 5)) :
    glyphRead font g r = .error ⟨.glyphRange, .glyph g r⟩ := dif_neg h

/-- Rows of a glyph, while they are below row 5. -/
theorem glyphRows_ok (font : Font) {g : Nat} (hg : g < 16) : ∀ (n r : Nat), r + n ≤ 5 →
    glyphRows font g r n = .ok ((List.range n).map fun k => (font[g]).toList.getD (r + k) 0)
  | 0, _, _ => rfl
  | n + 1, r, h => by
    have hr : r < 5 := by omega
    simp only [glyphRows, glyphRead_ok font hg hr, glyphRows_ok font hg n (r + 1) (by omega), List.range_succ_eq_map,
      List.map_cons, List.map_map, Nat.add_zero]
    congr 2
    · rw [List.getD_eq_getElem _ _ (by simpa using hr)]
      simp
    · refine List.map_congr_left fun k _ => ?_
      simp only [Function.comp]
      congr 1
      omega

/-- A draw of more than 5 rows raises at row 5. -/
theorem glyphRows_error (font : Font) {g : Nat} (hg : g < 16) : ∀ (n r : Nat), r ≤ 5 → 5 < r + n →
    glyphRows font g r n = .error ⟨.glyphRange, .glyph g 5⟩
  | 0, _, _, h => by omega
  | n + 1, r, hr, h => by
    by_cases h5 : r = 5
    · subst h5
      simp only [glyphRows, glyphRead_error font (g := g) (r := 5) (by omega)]
    · simp only [glyphRows, glyphRead_ok font hg (show r < 5 by omega),
        glyphRows_error font hg n (r + 1) (by omega) (by omega)]

section sprite
variable (g : Nat) (font : Font) (m : Memory) (i h : Nat)

theorem spriteRows_zero : spriteRows g font m i 0 = .ok [] := if_pos rfl

theorem spriteRows_glyph (h0 : h ≠ 0) (hi : g ≤ i ∧ i < g + 16) :
    spriteRows g font m i h = glyphRows font (i - g) 0 h := by
  unfold spriteRows; rw [if_neg h0, if_pos hi]

theorem spriteRows_low (h0 : h ≠ 0) (hi : ¬ (g ≤ i ∧ i < g + 16)) (hb : i < Config.base) :
    spriteRows g font m i h = .error (invalidAddress i) := by
  unfold spriteRows; rw [if_neg h0, if_neg hi, if_pos hb]

theorem spriteRows_memory (h0 : h ≠ 0) (hi : ¬ (g ≤ i ∧ i < g + 16)) (hb : ¬ i < Config.base) :
    spriteRows g font m i h = readBytes m i h := by
  unfold spriteRows; rw [if_neg h0, if_neg hi, if_neg hb]

/-- Everything `SpriteRows` can do: `h` rows, or one of two kinds of fault. -/
theorem spriteRows_cases :
    (∃ rows, spriteRows g font m i h = .ok rows ∧ rows.length = h) ∨
    (∃ r, spriteRows g font m i h = .error r ∧ (r.kind = .invalidAddress ∨ r.kind = .glyphRange)) := by
  by_cases h0 : h = 0
  · subst h0; exact .inl ⟨[], spriteRows_zero g font m i, rfl⟩
  · by_cases hi : g ≤ i ∧ i < g + 16
    · rw [spriteRows_glyph g font m i h h0 hi]
      by_cases h5 : h ≤ 5
      · exact .inl ⟨_, glyphRows_ok font (by omega) h 0 (by omega), by simp⟩
      · exact .inr ⟨_, glyphRows_error font (by omega) h 0 (by omega) (by omega), .inr rfl⟩
    · by_cases hb : i < Config.base
      · exact .inr ⟨_, spriteRows_low g font m i h h0 hi hb, .inl rfl⟩
      · rw [spriteRows_memory g font m i h h0 hi hb]
        rcases readBytes_cases m h i with ⟨_, e⟩ | ⟨j, _, _, _, e⟩
        · exact .inl ⟨_, e, by simp⟩
        · exact .inr ⟨_, e, .inl rfl⟩

end sprite

/-! ## Register lists -/

/-- V[0] to V[X] as a list has X + 1 bytes, each the register of its place. -/
theorem State.regsUpTo_length (s : State) (x : RegIx) : (s.regsUpTo x).length = x.val + 1 := by
  simp [State.regsUpTo]

theorem State.getElem_regsUpTo (s : State) (x k : RegIx) (h : k.val ≤ x.val) :
    (s.regsUpTo x)[k.val]'(by rw [s.regsUpTo_length]; omega) = s.reg k := by
  simp [State.regsUpTo, State.reg, Vector.get_eq_getElem]

/-- `putRegs` writes its bytes to the registers from `k` on and leaves the others. -/
theorem get_putRegs (r : RegIx) : ∀ (bs : List Byte) (v : Vector Byte 16) (k : Nat),
    (putRegs v k bs).get r = if h : k ≤ r.val ∧ r.val < k + bs.length then bs[r.val - k]'(by omega) else v.get r
  | [], v, k => by
    rw [dif_neg (by simp only [List.length_nil]; omega)]; rfl
  | b :: bs, v, k => by
    have e : putRegs v k (b :: bs) = putRegs (v.setIfInBounds k b) (k + 1) bs := rfl
    rw [e, get_putRegs r bs (v.setIfInBounds k b) (k + 1)]
    rcases Nat.lt_trichotomy r.val k with hr | hr | hr
    · rw [dif_neg (by omega), dif_neg (by omega)]
      simp [Vector.get_eq_getElem, show k ≠ r.val by omega]
    · rw [dif_neg (by omega), dif_pos ⟨by omega, by simp only [List.length_cons]; omega⟩]
      simp [Vector.get_eq_getElem, hr]
    · by_cases hl : r.val < k + 1 + bs.length
      · rw [dif_pos ⟨by omega, hl⟩, dif_pos ⟨by omega, by simp only [List.length_cons]; omega⟩]
        simp only [show r.val - k = (r.val - (k + 1)) + 1 by omega, List.getElem_cons_succ]
      · rw [dif_neg (by omega), dif_neg (by simp only [List.length_cons]; omega)]
        simp [Vector.get_eq_getElem, show k ≠ r.val by omega]

end Sys2Proof.Machine
end

