-- ==== Sys2Proof/Laws/Loop.lean ====
section
/-! SUPPORT. What the loop's phases can do. The first part shows that the timer phase, written in closed form, is the
while loop of spec/60_exceptions.md R270 (log entry 10). -/

namespace Sys2Proof.Machine

/-! ## The timer phase is R270's loop -/

theorem ticksIn_le {q : Rat} (h : 0 ≤ q) : (ticksIn q : Rat) * Config.tick ≤ q := by
  have h60 : (0 : Rat) ≤ q * 60 := by positivity
  have hf : 0 ≤ (q * 60).floor := Rat.le_floor_iff.2 (by simpa using h60)
  have hc : ((q * 60).floor : Rat) ≤ q * 60 := Rat.le_floor_iff.1 le_rfl
  have e : ((ticksIn q : Nat) : Rat) = ((q * 60).floor : Rat) := by
    unfold ticksIn Config.tickHz
    exact_mod_cast congrArg (Int.cast (R := Rat)) (Int.toNat_of_nonneg hf)
  rw [e]; unfold Config.tick; linarith

theorem lt_ticksIn_succ (q : Rat) : q < ((ticksIn q : Rat) + 1) * Config.tick := by
  have hc : q * 60 < ((q * 60).floor : Rat) + 1 := by
    have : ¬ ((q * 60).floor + 1) ≤ (q * 60).floor := by omega
    rw [Rat.le_floor_iff] at this
    push_cast at this
    linarith
  have e : ((q * 60).floor : Rat) ≤ ((ticksIn q : Nat) : Rat) := by
    unfold ticksIn Config.tickHz
    exact_mod_cast Int.self_le_toNat (q * 60).floor
  unfold Config.tick
  linarith

/-- A tick count that fits is the tick count. -/
theorem ticksIn_eq {q : Rat} {n : Nat} (h1 : (n : Rat) * Config.tick ≤ q) (h2 : q < ((n : Rat) + 1) * Config.tick) :
    ticksIn q = n := by
  have ht : (0 : Rat) < Config.tick := by norm_num [Config.tick]
  have hq : 0 ≤ q := le_trans (by positivity) h1
  have a1 := ticksIn_le hq
  have a2 := lt_ticksIn_succ q
  have b1 : ((ticksIn q : Nat) : Rat) < (n : Rat) + 1 := lt_of_mul_lt_mul_right (lt_of_le_of_lt a1 h2) ht.le
  have b2 : (n : Rat) < ((ticksIn q : Nat) : Rat) + 1 := lt_of_mul_lt_mul_right (lt_of_le_of_lt h1 a2) ht.le
  have c1 : ticksIn q < n + 1 := by exact_mod_cast b1
  have c2 : n < ticksIn q + 1 := by exact_mod_cast b2
  omega

/-- Below one tick the loop does not run. -/
theorem ticksIn_of_lt {q : Rat} (h0 : 0 ≤ q) (h : q < Config.tick) : ticksIn q = 0 :=
  ticksIn_eq (by simpa using h0) (by simpa using h)

/-- From one tick on, the loop runs once and then as from the value one tick less. -/
theorem ticksIn_succ {q : Rat} (h : Config.tick ≤ q) : ticksIn q = ticksIn (q - Config.tick) + 1 := by
  have h0 : 0 ≤ q - Config.tick := by linarith
  have a1 := ticksIn_le h0
  have a2 := lt_ticksIn_succ (q - Config.tick)
  apply ticksIn_eq
  · push_cast; linarith
  · push_cast; linarith

theorem timerAfter_toNat (v : Byte) (t : Nat) : (timerAfter v t).toNat = v.toNat - t := by
  unfold timerAfter
  have := v.isLt
  simp only [BitVec.toNat_ofNat]
  omega

theorem timerAfter_zero (v : Byte) : timerAfter v 0 = v := by
  apply BitVec.eq_of_toNat_eq; rw [timerAfter_toNat]; rfl

/-- One tick takes 1 from a value that is not 0. -/
theorem timerAfter_one (v : Byte) : timerAfter v 1 = if 0 < v.toNat then v - 1 else 0 := by
  apply BitVec.eq_of_toNat_eq
  rw [timerAfter_toNat]
  have := v.isLt
  have h1 : (1 : Byte).toNat = 1 := rfl
  have h0 : (0 : Byte).toNat = 0 := rfl
  split
  · rw [BitVec.toNat_sub, h1]; omega
  · rw [h0]; omega

theorem timerAfter_add (v : Byte) (t u : Nat) : timerAfter (timerAfter v t) u = timerAfter v (t + u) := by
  apply BitVec.eq_of_toNat_eq
  simp only [timerAfter_toNat]
  omega

/-- The accumulator after a timer phase is not negative and below one tick (R36). -/
theorem timersAdvance_acc (s : State) {d : Rat} (h : 0 ≤ s.acc + d) :
    0 ≤ (s.timersAdvance d).acc ∧ (s.timersAdvance d).acc < Config.tick := by
  have a1 := ticksIn_le h
  have a2 := lt_ticksIn_succ (s.acc + d)
  rw [State.acc_timersAdvance]
  constructor <;> linarith

/-- The time a timer phase counts is not negative. -/
theorem State.elapsed_nonneg (s : State) (h : 0 ≤ s.blocked) : 0 ≤ s.elapsed := by
  unfold State.elapsed creditedWait
  have := NNRat.coe_nonneg (Config.clockElapsed s.draws)
  split
  · exact add_nonneg this h
  · simpa only [add_zero] using this

/-! ## Phases (a) to (c) -/

section beforePhaseD
variable (s : State)

/-- Starting the loop is no part of the time it counts. -/
@[simp] theorem State.elapsed_startLoop : s.startLoop.elapsed = s.elapsed := by simp [State.elapsed]

@[simp] theorem State.v_beforePhaseD : s.beforePhaseD.v = s.v := by
  simp [State.beforePhaseD, State.timerPhase, State.pollInput]
@[simp] theorem State.reg_beforePhaseD (x : RegIx) : s.beforePhaseD.reg x = s.reg x := by
  simp [State.beforePhaseD, State.timerPhase, State.pollInput]
@[simp] theorem State.i_beforePhaseD : s.beforePhaseD.i = s.i := by
  simp [State.beforePhaseD, State.timerPhase, State.pollInput]
@[simp] theorem State.pc_beforePhaseD : s.beforePhaseD.pc = s.pc := by
  simp [State.beforePhaseD, State.timerPhase, State.pollInput]
@[simp] theorem State.sp_beforePhaseD : s.beforePhaseD.sp = s.sp := by
  simp [State.beforePhaseD, State.timerPhase, State.pollInput]
@[simp] theorem State.stack_beforePhaseD : s.beforePhaseD.stack = s.stack := by
  simp [State.beforePhaseD, State.timerPhase, State.pollInput]
@[simp] theorem State.skip_beforePhaseD : s.beforePhaseD.skip = s.skip := by
  simp [State.beforePhaseD, State.timerPhase, State.pollInput]
@[simp] theorem State.run_beforePhaseD : s.beforePhaseD.run = s.run := by
  simp [State.beforePhaseD, State.timerPhase, State.pollInput]
@[simp] theorem State.mem_beforePhaseD : s.beforePhaseD.mem = s.mem := by
  simp [State.beforePhaseD, State.timerPhase, State.pollInput]
@[simp] theorem State.fb_beforePhaseD : s.beforePhaseD.fb = s.fb := by
  simp [State.beforePhaseD, State.timerPhase, State.pollInput]
@[simp] theorem State.blocked_beforePhaseD : s.beforePhaseD.blocked = 0 := by
  simp [State.beforePhaseD, State.timerPhase, State.pollInput]
@[simp] theorem State.started_beforePhaseD : s.beforePhaseD.started = true := by
  simp [State.beforePhaseD, State.timerPhase, State.pollInput]
@[simp] theorem State.draws_beforePhaseD : s.beforePhaseD.draws = s.draws + 2 := by
  simp [State.beforePhaseD, State.timerPhase, State.pollInput]
@[simp] theorem State.keys_beforePhaseD : s.beforePhaseD.keys = Config.pollKeys (s.draws + 1) := by
  simp [State.beforePhaseD, State.timerPhase, State.pollInput]
theorem State.extents_beforePhaseD :
    s.beforePhaseD.extents = if s.started then s.extents else some (Config.displayW, Config.displayH) := by
  simp [State.beforePhaseD, State.timerPhase, State.pollInput]
theorem State.dt_beforePhaseD : s.beforePhaseD.dt = timerAfter s.dt (ticksIn (s.acc + s.elapsed)) := by
  simp [State.beforePhaseD, State.timerPhase, State.pollInput]
theorem State.st_beforePhaseD : s.beforePhaseD.st = timerAfter s.st (ticksIn (s.acc + s.elapsed)) := by
  simp [State.beforePhaseD, State.timerPhase, State.pollInput]
theorem State.acc_beforePhaseD : s.beforePhaseD.acc = (s.timersAdvance s.elapsed).acc := by
  simp [State.beforePhaseD, State.timerPhase, State.pollInput]

end beforePhaseD

/-! ## The fetch -/

theorem fetch_ok (s : State) (h : InWindow s.pc.toNat) (h' : InWindow (s.pc.toNat + 1)) :
    fetch s = .ok (wordOfBytes (s.mem.read s.pc.toNat) (s.mem.read (s.pc.toNat + 1))) := by
  unfold fetch; rw [memRead_ok h, memRead_ok h']

theorem fetch_error_high (s : State) (h : ¬ InWindow s.pc.toNat) : fetch s = .error (invalidAddress s.pc.toNat) := by
  unfold fetch; rw [memRead_error h]

theorem fetch_error_low (s : State) (h : InWindow s.pc.toNat) (h' : ¬ InWindow (s.pc.toNat + 1)) :
    fetch s = .error (invalidAddress (s.pc.toNat + 1)) := by
  unfold fetch; rw [memRead_ok h, memRead_error h']

/-- Everything the fetch can do. -/
theorem fetch_cases (s : State) :
    (∃ w, fetch s = .ok w) ∨ (∃ a, fetch s = .error (invalidAddress a)) := by
  by_cases h : InWindow s.pc.toNat
  · by_cases h' : InWindow (s.pc.toNat + 1)
    · exact .inl ⟨_, fetch_ok s h h'⟩
    · exact .inr ⟨_, fetch_error_low s h h'⟩
  · exact .inr ⟨_, fetch_error_high s h⟩

/-! ## The key wait -/

section passWait
variable (s : State)

@[simp] theorem State.v_passWait : s.passWait.v = s.v := rfl
@[simp] theorem State.i_passWait : s.passWait.i = s.i := rfl
@[simp] theorem State.pc_passWait : s.passWait.pc = s.pc := rfl
@[simp] theorem State.sp_passWait : s.passWait.sp = s.sp := rfl
@[simp] theorem State.stack_passWait : s.passWait.stack = s.stack := rfl
@[simp] theorem State.dt_passWait : s.passWait.dt = s.dt := rfl
@[simp] theorem State.st_passWait : s.passWait.st = s.st := rfl
@[simp] theorem State.skip_passWait : s.passWait.skip = s.skip := rfl
@[simp] theorem State.acc_passWait : s.passWait.acc = s.acc := rfl
@[simp] theorem State.keys_passWait : s.passWait.keys = s.keys := rfl
@[simp] theorem State.run_passWait : s.passWait.run = s.run := rfl
@[simp] theorem State.mem_passWait : s.passWait.mem = s.mem := rfl
@[simp] theorem State.fb_passWait : s.passWait.fb = s.fb := rfl
@[simp] theorem State.extents_passWait : s.passWait.extents = s.extents := rfl
@[simp] theorem State.started_passWait : s.passWait.started = s.started := rfl
@[simp] theorem State.draws_passWait : s.passWait.draws = s.draws + 1 := rfl

theorem State.blocked_passWait : s.passWait.blocked = s.blocked + (Config.clockElapsed s.draws : Rat) := rfl

end passWait

/-- Everything a step of the wait can do: nothing but let time pass, or resume FX0A with the key delivered. -/
theorem waitStep_cases (x : RegIx) (s : State) :
    (Config.keyEvent (s.draws + 1) = none ∧ waitStep x s = s.passWait.nextDraw) ∨
    (∃ k, Config.keyEvent (s.draws + 1) = some k ∧ waitStep x s = resumeKey x k s.passWait.nextDraw) := by
  unfold waitStep
  cases h : Config.keyEvent s.passWait.draws with
  | none => exact .inl ⟨h, rfl⟩
  | some k => exact .inr ⟨k, h, rfl⟩

end Sys2Proof.Machine
end

