-- ==== Sys2Proof/Laws/Completion.lean ====
section
/-! SUPPORT. How an instruction's meaning ends, said once for each shape of meaning: a plain advance, a handler that may raise,
a checked jump. -/

namespace Sys2Proof.Machine

/-- A meaning that advances from `s1`, which keeps the PC, completes with `s1` or faults on the advance. -/
theorem completes_of_advance {i : Instr} {s s1 : State} (h : exec i s = .next (advance (some (encode i)) s s1))
    (hpc : s1.pc = s.pc) : CompletesOrFaultsOnAdvance i s s1 := by
  refine ⟨fun hc => ?_, fun hc => ?_⟩
  · rw [h, advance_ok _ _ _ (by rwa [hpc]), hpc]
    rfl
  · rw [h, advance_error _ _ _ (by rwa [hpc]), hpc]
    rfl

/-- The same for a handler that did not raise. -/
theorem completes_of_tryAdvance {i : Instr} {s s1 : State} {r : Except Raised State}
    (h : exec i s = .next (tryAdvance (some (encode i)) s r)) (hr : r = .ok s1) (hpc : s1.pc = s.pc) :
    CompletesOrFaultsOnAdvance i s s1 :=
  completes_of_advance (by rw [h, hr, tryAdvance_ok]) hpc

/-- A handler that raises halts the block with the record of the instruction. -/
theorem halts_of_tryAdvance {i : Instr} {s : State} {r : Except Raised State} {k : FaultKind} {f : FaultInfo}
    (h : exec i s = .next (tryAdvance (some (encode i)) s r)) (hr : r = .error ⟨k, f⟩) :
    exec i s = .next (haltedAt s i k f) := by
  rw [h, hr, tryAdvance_error]
  rfl

/-- A checked jump to a target of the window. -/
theorem jumps_of_writePc {i : Instr} {s s1 : State} {t : Nat} (h : exec i s = .next (writePc (some (encode i)) s s1 t))
    (ht : InWindow t) : exec i s = .next (s1.setPc (BitVec.ofNat 16 t)) := by
  rw [h, writePc_ok _ _ _ ht]

/-- A checked jump to a target outside the window, by a handler that called no external contract. -/
theorem halts_of_writePc {i : Instr} {s s1 : State} {t : Nat} (h : exec i s = .next (writePc (some (encode i)) s s1 t))
    (hfb : s1.fb = s.fb) (hd : s1.draws = s.draws) (ht : ¬ InWindow t) :
    exec i s = .next (haltedAt s i .invalidAddress (.address t)) := by
  rw [h, writePc_error _ _ _ ht]
  unfold raise haltedAt
  rw [hfb, hd]
  rfl

/-! ## The encoder's words by R90 -/

theorem setWidth_nibbleOf (x : RegIx) : (nibbleOf x).setWidth 16 = BitVec.ofNat 16 x.val := by
  apply BitVec.eq_of_toNat_eq
  simp [nibbleOf]

theorem word12_eq_fieldsNNN (f : Nibble) (nnn : Imm12) : word12 f nnn = fieldsNNN (f.setWidth 16 <<< 12) nnn := rfl

theorem wordX8_eq_fieldsXNN (f : Nibble) (x : RegIx) (nn : Byte) :
    wordX8 f (nibbleOf x) nn = fieldsXNN (f.setWidth 16 <<< 12) x nn := by
  rw [wordX8, setWidth_nibbleOf]; rfl

theorem wordX8_eq_fieldsX (f : Nibble) (x : RegIx) (nn : Byte) :
    wordX8 f (nibbleOf x) nn = fieldsX ((f.setWidth 16 <<< 12) ||| nn.setWidth 16) x := by
  rw [wordX8, setWidth_nibbleOf, fieldsX, BitVec.or_assoc, BitVec.or_comm (BitVec.ofNat 16 x.val <<< 8), BitVec.or_assoc]

theorem word4_eq_fieldsXYN (f : Nibble) (x y n : Fin 16) :
    word4 f (nibbleOf x) (nibbleOf y) (nibbleOf n) = fieldsXYN (f.setWidth 16 <<< 12) x y n := by
  rw [word4, setWidth_nibbleOf, setWidth_nibbleOf, setWidth_nibbleOf]; rfl

theorem word4_eq_fieldsXYN_zero (f : Nibble) (x y : RegIx) (n : Nibble) :
    word4 f (nibbleOf x) (nibbleOf y) n = fieldsXYN ((f.setWidth 16 <<< 12) ||| n.setWidth 16) x y 0 := by
  rw [word4, setWidth_nibbleOf, setWidth_nibbleOf]
  unfold fieldsXYN
  apply BitVec.eq_of_getLsbD_eq
  intro i hi
  simp only [BitVec.getLsbD_or]
  cases (f.setWidth 16 <<< 12).getLsbD i <;> cases (n.setWidth 16).getLsbD i <;>
    cases (BitVec.ofNat 16 x.val <<< 8).getLsbD i <;> cases (BitVec.ofNat 16 y.val <<< 4).getLsbD i <;> simp

/-! ## Phase (d) and the step -/

theorem phaseD_skip {s : State} (h : 0 < s.skip) : phaseD s = .next (consumeSkip s) := if_pos h

theorem phaseD_fetch_error {s : State} {r : Raised} (h : s.skip = 0) (hf : fetch s = .error r) :
    phaseD s = .next (raiseFetch s r) := by
  unfold phaseD
  rw [if_neg (by omega), hf]

theorem phaseD_illegal {s : State} {w : Word} {e : Reject} (h : s.skip = 0) (hf : fetch s = .ok w)
    (hd : decodeWord w = .error e) : phaseD s = .next (raiseIllegal w s) := by
  unfold phaseD
  rw [if_neg (by omega), hf]
  simp only [hd]

theorem phaseD_exec {s : State} {w : Word} {i : Instr} (h : s.skip = 0) (hf : fetch s = .ok w)
    (hd : decodeWord w = .ok i) : phaseD s = exec i s := by
  unfold phaseD
  rw [if_neg (by omega), hf]
  simp only [hd]

/-- Everything phase (d) can do. -/
theorem phaseD_cases (s : State) :
    (0 < s.skip ∧ phaseD s = .next (consumeSkip s)) ∨
    (s.skip = 0 ∧ ∃ r, fetch s = .error r ∧ phaseD s = .next (raiseFetch s r)) ∨
    (s.skip = 0 ∧ ∃ w e, fetch s = .ok w ∧ decodeWord w = .error e ∧ phaseD s = .next (raiseIllegal w s)) ∨
    (s.skip = 0 ∧ ∃ w i, fetch s = .ok w ∧ decodeWord w = .ok i ∧ phaseD s = exec i s) := by
  by_cases h : 0 < s.skip
  · exact .inl ⟨h, phaseD_skip h⟩
  · have h0 : s.skip = 0 := by omega
    refine .inr ?_
    cases hf : fetch s with
    | error r => exact .inl ⟨h0, r, rfl, phaseD_fetch_error h0 hf⟩
    | ok w =>
      refine .inr ?_
      cases hd : decodeWord w with
      | error e => exact .inl ⟨h0, w, e, rfl, hd, phaseD_illegal h0 hf hd⟩
      | ok i => exact .inr ⟨h0, w, i, rfl, hd, phaseD_exec h0 hf hd⟩

theorem step_running {s : State} (h : s.run = .running) : step s = phaseD s.beforePhaseD := by
  unfold step; rw [h]

theorem step_waiting {s : State} {x : RegIx} (h : s.run = .waitingKey x) : step s = .next (waitStep x s) := by
  unfold step; rw [h]

/-- Phases (a) to (c) do not move what the fetch reads. -/
theorem fetch_beforePhaseD (s : State) : fetch s.beforePhaseD = fetch s := by
  simp [fetch]

/-- Phases (a) to (c) do not move the PC. -/
theorem canAdvance_beforePhaseD (s : State) : CanAdvance s.beforePhaseD ↔ CanAdvance s := by
  unfold CanAdvance; rw [State.pc_beforePhaseD]

/-- Everything a conditional skip does, when its condition has a value. -/
theorem skip_completes {i : Instr} {s : State} {b : Bool} (h : skipCondition i s = some b) :
    CompletesOrFaultsOnAdvance i s (s.requestSkip b) := by
  have key : ∀ x, (if (s.reg x).toNat ≤ 15 then some (s.keys.getLsbD (s.reg x).toNat) else none) = some b →
      s.skipIfDown x = .ok (s.requestSkip b) := by
    intro x hx
    split at hx
    · next hk => unfold State.skipIfDown; rw [keyCheck_ok hk]; cases hx; rfl
    · cases hx
  cases i with
  | seImm x nn => cases h; exact completes_of_advance rfl rfl
  | sneImm x nn =>
    cases h
    refine completes_of_advance ?_ rfl
    show _ = Host.Outcome.next (advance _ s (s.requestSkip (decide (s.reg x ≠ nn))))
    rw [decide_not]; rfl
  | seReg x y => cases h; exact completes_of_advance rfl rfl
  | sneReg x y =>
    cases h
    refine completes_of_advance ?_ rfl
    show _ = Host.Outcome.next (advance _ s (s.requestSkip (decide (s.reg x ≠ s.reg y))))
    rw [decide_not]; rfl
  | skp x => exact completes_of_tryAdvance rfl (key x h) rfl
  | sknp x => exact completes_of_tryAdvance rfl (key x h) rfl
  | cls | ret | jp _ | call _ | jpV0 _ => cases h
  | ldImm _ _ | addImm _ _ | rnd _ _ | ldReg _ _ | orReg _ _ | andReg _ _ | xorReg _ _ => cases h
  | addReg _ _ | subReg _ _ | subnReg _ _ | shr _ _ | shl _ _ | ldI _ | addI _ | ldF _ | drw _ _ _ => cases h
  | ldVxDt _ | ldVxK _ | ldDtVx _ | ldStVx _ | ldB _ | storeRegs _ | loadRegs _ => cases h

/-- Everything a draw of rows that could be read does. -/
theorem drw_draws {s : State} {x y : RegIx} {n : Fin 16} {rows : List Byte}
    (hr : spriteRows Config.glyphBase Config.font s.mem s.i.toNat n.val = .ok rows) (hl : rows.length ≤ 32) :
    DrawsSprite (.drw x y n) s rows (s.reg x).toNat (s.reg y).toNat :=
  ⟨(drawSprite s.fb (s.reg x).toNat (s.reg y).toNat (unpack rows)).1,
    (drawSprite s.fb (s.reg x).toNat (s.reg y).toNat (unpack rows)).2,
    fun px _ py _ => pixel_drawSprite _ _ _ _ px py hl, drawSprite_collided _ _ _ _ hl,
    completes_of_tryAdvance (r := State.drawWith Config.glyphBase Config.font s x y n) (s1 := s.drawRows x y rows) rfl
      (by unfold State.drawWith State.iAddr; rw [hr]) rfl⟩

end Sys2Proof.Machine
end

