-- ==== Sys2Proof/Laws/PerInstr.lean ====
section
/-! SUPPORT. A family of statements, one per instruction: the word of the instruction is legal, that is, it matches a row of the
opcode map (spec/30_encoding.md R85, R86). -/

namespace Sys2Proof

theorem wellFormedWord_of_hit {r : OpRow} {w : Word} (hr : r ∈ opcodeRows) (h : r.hit w = true) :
    wellFormedWord w = true :=
  List.any_eq_true.2 ⟨r, hr, h⟩

theorem wellFormedWord_of_f000 {w v : Word} (pat : String) (hr : (⟨pat, 0xF000, v⟩ : OpRow) ∈ opcodeRows)
    (h : word4 (n0 w) 0 0 0 = v) : wellFormedWord w = true :=
  wellFormedWord_of_hit hr (by rw [OpRow.hit, and_f000, h]; exact beq_self_eq_true v)

theorem wellFormedWord_of_f00f {w v : Word} (pat : String) (hr : (⟨pat, 0xF00F, v⟩ : OpRow) ∈ opcodeRows)
    (h : word4 (n0 w) 0 0 (n3 w) = v) : wellFormedWord w = true :=
  wellFormedWord_of_hit hr (by rw [OpRow.hit, and_f00f, h]; exact beq_self_eq_true v)

theorem wellFormedWord_of_f0ff {w v : Word} (pat : String) (hr : (⟨pat, 0xF0FF, v⟩ : OpRow) ∈ opcodeRows)
    (h : wordX8 (n0 w) 0 (nnOf w) = v) : wellFormedWord w = true :=
  wellFormedWord_of_hit hr (by rw [OpRow.hit, and_f0ff, h]; exact beq_self_eq_true v)

namespace Laws.EncodeLegal

/-- The word of the instruction is legal (R86). -/
def Statement (i : Instr) : Prop := wellFormedWord (encode i) = true

theorem cls : Statement .cls :=
  wellFormedWord_of_hit (r := ⟨"00E0", 0xFFFF, 0x00E0⟩) (by simp [opcodeRows, opcodeRowsLow]) (by decide)

theorem ret : Statement .ret :=
  wellFormedWord_of_hit (r := ⟨"00EE", 0xFFFF, 0x00EE⟩) (by simp [opcodeRows, opcodeRowsLow]) (by decide)

theorem jp (nnn : Imm12) : Statement (.jp nnn) :=
  wellFormedWord_of_f000 (v := 0x1000) "1NNN"
    (by simp [opcodeRows, opcodeRowsLow, opcodeRowsAlu, opcodeRowsHigh]) (by
      simp only [encode, n0_word12]
      decide)

theorem call (nnn : Imm12) : Statement (.call nnn) :=
  wellFormedWord_of_f000 (v := 0x2000) "2NNN"
    (by simp [opcodeRows, opcodeRowsLow, opcodeRowsAlu, opcodeRowsHigh]) (by
      simp only [encode, n0_word12]
      decide)

theorem seImm (x : RegIx) (nn : Byte) : Statement (.seImm x nn) :=
  wellFormedWord_of_f000 (v := 0x3000) "3XNN"
    (by simp [opcodeRows, opcodeRowsLow, opcodeRowsAlu, opcodeRowsHigh]) (by
      simp only [encode, n0_wordX8]
      decide)

theorem sneImm (x : RegIx) (nn : Byte) : Statement (.sneImm x nn) :=
  wellFormedWord_of_f000 (v := 0x4000) "4XNN"
    (by simp [opcodeRows, opcodeRowsLow, opcodeRowsAlu, opcodeRowsHigh]) (by
      simp only [encode, n0_wordX8]
      decide)

theorem seReg (x : RegIx) (y : RegIx) : Statement (.seReg x y) :=
  wellFormedWord_of_f00f (v := 0x5000) "5XY0"
    (by simp [opcodeRows, opcodeRowsLow, opcodeRowsAlu, opcodeRowsHigh]) (by
      simp only [encode, n0_word4, n3_word4]
      decide)

theorem ldImm (x : RegIx) (nn : Byte) : Statement (.ldImm x nn) :=
  wellFormedWord_of_f000 (v := 0x6000) "6XNN"
    (by simp [opcodeRows, opcodeRowsLow, opcodeRowsAlu, opcodeRowsHigh]) (by
      simp only [encode, n0_wordX8]
      decide)

theorem addImm (x : RegIx) (nn : Byte) : Statement (.addImm x nn) :=
  wellFormedWord_of_f000 (v := 0x7000) "7XNN"
    (by simp [opcodeRows, opcodeRowsLow, opcodeRowsAlu, opcodeRowsHigh]) (by
      simp only [encode, n0_wordX8]
      decide)

theorem ldReg (x : RegIx) (y : RegIx) : Statement (.ldReg x y) :=
  wellFormedWord_of_f00f (v := 0x8000) "8XY0"
    (by simp [opcodeRows, opcodeRowsLow, opcodeRowsAlu, opcodeRowsHigh]) (by
      simp only [encode, n0_word4, n3_word4]
      decide)

theorem orReg (x : RegIx) (y : RegIx) : Statement (.orReg x y) :=
  wellFormedWord_of_f00f (v := 0x8001) "8XY1"
    (by simp [opcodeRows, opcodeRowsLow, opcodeRowsAlu, opcodeRowsHigh]) (by
      simp only [encode, n0_word4, n3_word4]
      decide)

theorem andReg (x : RegIx) (y : RegIx) : Statement (.andReg x y) :=
  wellFormedWord_of_f00f (v := 0x8002) "8XY2"
    (by simp [opcodeRows, opcodeRowsLow, opcodeRowsAlu, opcodeRowsHigh]) (by
      simp only [encode, n0_word4, n3_word4]
      decide)

theorem xorReg (x : RegIx) (y : RegIx) : Statement (.xorReg x y) :=
  wellFormedWord_of_f00f (v := 0x8003) "8XY3"
    (by simp [opcodeRows, opcodeRowsLow, opcodeRowsAlu, opcodeRowsHigh]) (by
      simp only [encode, n0_word4, n3_word4]
      decide)

theorem addReg (x : RegIx) (y : RegIx) : Statement (.addReg x y) :=
  wellFormedWord_of_f00f (v := 0x8004) "8XY4"
    (by simp [opcodeRows, opcodeRowsLow, opcodeRowsAlu, opcodeRowsHigh]) (by
      simp only [encode, n0_word4, n3_word4]
      decide)

theorem subReg (x : RegIx) (y : RegIx) : Statement (.subReg x y) :=
  wellFormedWord_of_f00f (v := 0x8005) "8XY5"
    (by simp [opcodeRows, opcodeRowsLow, opcodeRowsAlu, opcodeRowsHigh]) (by
      simp only [encode, n0_word4, n3_word4]
      decide)

theorem shr (x : RegIx) (y : RegIx) : Statement (.shr x y) :=
  wellFormedWord_of_f00f (v := 0x8006) "8XY6"
    (by simp [opcodeRows, opcodeRowsLow, opcodeRowsAlu, opcodeRowsHigh]) (by
      simp only [encode, n0_word4, n3_word4]
      decide)

theorem subnReg (x : RegIx) (y : RegIx) : Statement (.subnReg x y) :=
  wellFormedWord_of_f00f (v := 0x8007) "8XY7"
    (by simp [opcodeRows, opcodeRowsLow, opcodeRowsAlu, opcodeRowsHigh]) (by
      simp only [encode, n0_word4, n3_word4]
      decide)

theorem shl (x : RegIx) (y : RegIx) : Statement (.shl x y) :=
  wellFormedWord_of_f00f (v := 0x800E) "8XYE"
    (by simp [opcodeRows, opcodeRowsLow, opcodeRowsAlu, opcodeRowsHigh]) (by
      simp only [encode, n0_word4, n3_word4]
      decide)

theorem sneReg (x : RegIx) (y : RegIx) : Statement (.sneReg x y) :=
  wellFormedWord_of_f00f (v := 0x9000) "9XY0"
    (by simp [opcodeRows, opcodeRowsLow, opcodeRowsAlu, opcodeRowsHigh]) (by
      simp only [encode, n0_word4, n3_word4]
      decide)

theorem ldI (nnn : Imm12) : Statement (.ldI nnn) :=
  wellFormedWord_of_f000 (v := 0xA000) "ANNN"
    (by simp [opcodeRows, opcodeRowsLow, opcodeRowsAlu, opcodeRowsHigh]) (by
      simp only [encode, n0_word12]
      decide)

theorem jpV0 (nnn : Imm12) : Statement (.jpV0 nnn) :=
  wellFormedWord_of_f000 (v := 0xB000) "BNNN"
    (by simp [opcodeRows, opcodeRowsLow, opcodeRowsAlu, opcodeRowsHigh]) (by
      simp only [encode, n0_word12]
      decide)

theorem rnd (x : RegIx) (nn : Byte) : Statement (.rnd x nn) :=
  wellFormedWord_of_f000 (v := 0xC000) "CXNN"
    (by simp [opcodeRows, opcodeRowsLow, opcodeRowsAlu, opcodeRowsHigh]) (by
      simp only [encode, n0_wordX8]
      decide)

theorem drw (x : RegIx) (y : RegIx) (n : Fin 16) : Statement (.drw x y n) :=
  wellFormedWord_of_f000 (v := 0xD000) "DXYN"
    (by simp [opcodeRows, opcodeRowsLow, opcodeRowsAlu, opcodeRowsHigh]) (by
      simp only [encode, n0_word4]
      decide)

theorem skp (x : RegIx) : Statement (.skp x) :=
  wellFormedWord_of_f0ff (v := 0xE09E) "EX9E"
    (by simp [opcodeRows, opcodeRowsLow, opcodeRowsAlu, opcodeRowsHigh]) (by
      simp only [encode, n0_wordX8, nnOf_wordX8]
      decide)

theorem sknp (x : RegIx) : Statement (.sknp x) :=
  wellFormedWord_of_f0ff (v := 0xE0A1) "EXA1"
    (by simp [opcodeRows, opcodeRowsLow, opcodeRowsAlu, opcodeRowsHigh]) (by
      simp only [encode, n0_wordX8, nnOf_wordX8]
      decide)

theorem ldVxDt (x : RegIx) : Statement (.ldVxDt x) :=
  wellFormedWord_of_f0ff (v := 0xF007) "FX07"
    (by simp [opcodeRows, opcodeRowsLow, opcodeRowsAlu, opcodeRowsHigh]) (by
      simp only [encode, n0_wordX8, nnOf_wordX8]
      decide)

theorem ldVxK (x : RegIx) : Statement (.ldVxK x) :=
  wellFormedWord_of_f0ff (v := 0xF00A) "FX0A"
    (by simp [opcodeRows, opcodeRowsLow, opcodeRowsAlu, opcodeRowsHigh]) (by
      simp only [encode, n0_wordX8, nnOf_wordX8]
      decide)

theorem ldDtVx (x : RegIx) : Statement (.ldDtVx x) :=
  wellFormedWord_of_f0ff (v := 0xF015) "FX15"
    (by simp [opcodeRows, opcodeRowsLow, opcodeRowsAlu, opcodeRowsHigh]) (by
      simp only [encode, n0_wordX8, nnOf_wordX8]
      decide)

theorem ldStVx (x : RegIx) : Statement (.ldStVx x) :=
  wellFormedWord_of_f0ff (v := 0xF018) "FX18"
    (by simp [opcodeRows, opcodeRowsLow, opcodeRowsAlu, opcodeRowsHigh]) (by
      simp only [encode, n0_wordX8, nnOf_wordX8]
      decide)

theorem addI (x : RegIx) : Statement (.addI x) :=
  wellFormedWord_of_f0ff (v := 0xF01E) "FX1E"
    (by simp [opcodeRows, opcodeRowsLow, opcodeRowsAlu, opcodeRowsHigh]) (by
      simp only [encode, n0_wordX8, nnOf_wordX8]
      decide)

theorem ldF (x : RegIx) : Statement (.ldF x) :=
  wellFormedWord_of_f0ff (v := 0xF029) "FX29"
    (by simp [opcodeRows, opcodeRowsLow, opcodeRowsAlu, opcodeRowsHigh]) (by
      simp only [encode, n0_wordX8, nnOf_wordX8]
      decide)

theorem ldB (x : RegIx) : Statement (.ldB x) :=
  wellFormedWord_of_f0ff (v := 0xF033) "FX33"
    (by simp [opcodeRows, opcodeRowsLow, opcodeRowsAlu, opcodeRowsHigh]) (by
      simp only [encode, n0_wordX8, nnOf_wordX8]
      decide)

theorem storeRegs (x : RegIx) : Statement (.storeRegs x) :=
  wellFormedWord_of_f0ff (v := 0xF055) "FX55"
    (by simp [opcodeRows, opcodeRowsLow, opcodeRowsAlu, opcodeRowsHigh]) (by
      simp only [encode, n0_wordX8, nnOf_wordX8]
      decide)

theorem loadRegs (x : RegIx) : Statement (.loadRegs x) :=
  wellFormedWord_of_f0ff (v := 0xF065) "FX65"
    (by simp [opcodeRows, opcodeRowsLow, opcodeRowsAlu, opcodeRowsHigh]) (by
      simp only [encode, n0_wordX8, nnOf_wordX8]
      decide)

end Laws.EncodeLegal

end Sys2Proof
end

