-- ==== Sys2Proof/Tests/Slice0.lean ====
section
/-! SUPPORT. Tests of single words, single instructions and single steps, their expected results from spec/30_encoding.md
R85, R86 and R90 and from the vectors of spec/95_test_vectors.md, and for every statement with hypotheses a witness that
meets them. -/

namespace Sys2Proof.Tests

open Sys2Proof Sys2Proof.Machine

/-! ## Helpers -/

/-- The state after reset, on a display with every pixel unset (the convention of spec/95_test_vectors.md). -/
def start : State := { State.reset with fb := blankCanvas }

/-- Registers V0, V1, ... from a list, the others 0. -/
def regs (l : List Byte) : Vector Byte 16 := putRegs (Vector.replicate 16 0) 0 l

/-- Registers with one value set. -/
def regAt (x : RegIx) (b : Byte) : Vector Byte 16 := (Vector.replicate 16 0).set x.val b

/-- `start` with the registers given. -/
def withRegs (v : Vector Byte 16) : State := { start with v := v }

/-- `start` with a word at the PC. -/
def withWord (pc w : Word) : State :=
  { start with pc := pc, mem := (Memory.write [] pc.toNat (highByte w)).write (pc.toNat + 1) (lowByte w) }

/-- The result is a next state with the property. -/
def after (r : Result) (p : State → Bool) : Bool :=
  match r with
  | .next t => p t
  | .fault _ => false
  | .refused _ => false

theorem of_after {r : Result} {p : State → Bool} (h : after r p = true) : ∃ t, r = .next t ∧ p t = true := by
  cases r with
  | next t => exact ⟨t, rfl, h⟩
  | fault _ => cases h
  | refused _ => cases h

/-- The handler answers a state with the property. -/
def okAnd (r : Except Raised State) (p : State → Bool) : Bool :=
  match r with
  | .ok t => p t
  | .error _ => false

/-- The result is halted with the record. -/
def haltsWith (r : Result) (e : ErrRecord) : Bool := after r fun t => t.run == .halted e

/-- What a halted result recorded. -/
theorem of_haltsWith {r : Result} {e : ErrRecord} (h : haltsWith r e = true) : ∃ t, r = .next t ∧ t.run = .halted e := by
  obtain ⟨t, ht, he⟩ := of_after h
  exact ⟨t, ht, by simpa using he⟩

/-! ## Well-formed words: an illegal word for each family that has any (R86) -/

theorem test_illegal_family0 : wellFormedWord 0x0123 = false ∧ decodeWord 0x0123 = .error .family0 := by decide
theorem test_illegal_family0_zero : wellFormedWord 0x0000 = false ∧ decodeWord 0x0000 = .error .family0 := by decide
theorem test_illegal_family5 : wellFormedWord 0x5131 = false ∧ decodeWord 0x5131 = .error .family5 := by decide
theorem test_illegal_family8 : wellFormedWord 0x801D = false ∧ decodeWord 0x801D = .error .family8 := by decide
theorem test_illegal_family9 : wellFormedWord 0x913F = false ∧ decodeWord 0x913F = .error .family9 := by decide
theorem test_illegal_familyE : wellFormedWord 0xE49F = false ∧ decodeWord 0xE49F = .error .familyE := by decide
theorem test_illegal_familyF : wellFormedWord 0xF0FF = false ∧ decodeWord 0xF0FF = .error .familyF := by decide
theorem test_legal_words : wellFormedWord 0x00E0 = true ∧ wellFormedWord 0x1000 = true ∧ wellFormedWord 0x8FFE = true ∧
    wellFormedWord 0xEFA1 = true ∧ wellFormedWord 0xFF65 = true := by decide

/-! ## Decoding: one word of every row of the opcode map, written out from its pattern (R85) -/

theorem test_decode_cls : decodeBytes 0x00 0xE0 = .ok .cls := by decide
theorem test_decode_ret : decodeBytes 0x00 0xEE = .ok .ret := by decide
theorem test_decode_jp : decodeBytes 0x12 0x34 = .ok (.jp 0x234) := by decide
theorem test_decode_call : decodeBytes 0x2A 0xBC = .ok (.call 0xABC) := by decide
theorem test_decode_seImm : decodeBytes 0x32 0x05 = .ok (.seImm 2 0x05) := by decide
theorem test_decode_sneImm : decodeBytes 0x4D 0xC1 = .ok (.sneImm 13 0xC1) := by decide
theorem test_decode_seReg : decodeBytes 0x51 0x30 = .ok (.seReg 1 3) := by decide
theorem test_decode_ldImm : decodeBytes 0x6A 0x9C = .ok (.ldImm 10 0x9C) := by decide
theorem test_decode_addImm : decodeBytes 0x73 0x10 = .ok (.addImm 3 0x10) := by decide
theorem test_decode_ldReg : decodeBytes 0x81 0x20 = .ok (.ldReg 1 2) := by decide
theorem test_decode_orReg : decodeBytes 0x81 0x21 = .ok (.orReg 1 2) := by decide
theorem test_decode_andReg : decodeBytes 0x8A 0x52 = .ok (.andReg 10 5) := by decide
theorem test_decode_xorReg : decodeBytes 0x8F 0x03 = .ok (.xorReg 15 0) := by decide
theorem test_decode_addReg : decodeBytes 0x80 0xF4 = .ok (.addReg 0 15) := by decide
theorem test_decode_subReg : decodeBytes 0x87 0x65 = .ok (.subReg 7 6) := by decide
theorem test_decode_shr : decodeBytes 0x83 0x46 = .ok (.shr 3 4) := by decide
theorem test_decode_subnReg : decodeBytes 0x8C 0xD7 = .ok (.subnReg 12 13) := by decide
theorem test_decode_shl : decodeBytes 0x84 0x5E = .ok (.shl 4 5) := by decide
theorem test_decode_sneReg : decodeBytes 0x91 0x30 = .ok (.sneReg 1 3) := by decide
theorem test_decode_ldI : decodeBytes 0xA1 0x23 = .ok (.ldI 0x123) := by decide
theorem test_decode_jpV0 : decodeBytes 0xB3 0x00 = .ok (.jpV0 0x300) := by decide
theorem test_decode_rnd : decodeBytes 0xC1 0x0F = .ok (.rnd 1 0x0F) := by decide
theorem test_decode_drw : decodeBytes 0xD1 0x25 = .ok (.drw 1 2 5) := by decide
theorem test_decode_skp : decodeBytes 0xE4 0x9E = .ok (.skp 4) := by decide
theorem test_decode_sknp : decodeBytes 0xE4 0xA1 = .ok (.sknp 4) := by decide
theorem test_decode_ldVxDt : decodeBytes 0xF5 0x07 = .ok (.ldVxDt 5) := by decide
theorem test_decode_ldVxK : decodeBytes 0xF2 0x0A = .ok (.ldVxK 2) := by decide
theorem test_decode_ldDtVx : decodeBytes 0xF1 0x15 = .ok (.ldDtVx 1) := by decide
theorem test_decode_ldStVx : decodeBytes 0xFE 0x18 = .ok (.ldStVx 14) := by decide
theorem test_decode_addI : decodeBytes 0xFB 0x1E = .ok (.addI 11) := by decide
theorem test_decode_ldF : decodeBytes 0xF9 0x29 = .ok (.ldF 9) := by decide
theorem test_decode_ldB : decodeBytes 0xF3 0x33 = .ok (.ldB 3) := by decide
theorem test_decode_storeRegs : decodeBytes 0xF4 0x55 = .ok (.storeRegs 4) := by decide
theorem test_decode_loadRegs : decodeBytes 0xF2 0x65 = .ok (.loadRegs 2) := by decide

/-! ## Control flow (vectors T0, T1, T2, TB) -/

/-- T0.1. -/
theorem test_cls_T0_1 : after (exec .cls { start with fb := Vector.replicate 32 1 })
    (fun t => t.fb == blankCanvas && t.pc == 0x202) = true := by decide

/-- T0.2: the display stays cleared, and the advance faults. -/
theorem test_cls_T0_2 : after (exec .cls { start with pc := 0xFFE, fb := Vector.replicate 32 1 }) (fun t =>
    t.fb == blankCanvas && t.pc == 0xFFE &&
    t.run == .halted ⟨.invalidAddress, 0xFFE, some 0x00E0, .address 0x1000⟩) = true := by decide

/-- T0.3. -/
theorem test_ret_T0_3 : after (exec .ret { start with pc := 0x300, sp := 1, stack := start.stack.set 0 0x204 })
    (fun t => t.sp == 0 && t.pc == 0x206 && t.run == .running) = true := by decide

/-- T0.5: the pop is discarded. -/
theorem test_ret_T0_5 : after (exec .ret { start with pc := 0x400, sp := 1, stack := start.stack.set 0 0xFFE })
    (fun t => t.sp == 1 && t.pc == 0x400 &&
      t.run == .halted ⟨.invalidAddress, 0x400, some 0x00EE, .address 0x1000⟩) = true := by decide

/-- T1.6. -/
theorem test_jp_T1_6 : after (exec (.jp 0x201) start) (fun t => t.pc == 0x201 && t.run == .running) = true := by decide

/-- T1.3. -/
theorem test_jp_T1_3 : after (exec (.jp 0x1FF) start) (fun t => t.pc == 0x200 &&
    t.run == .halted ⟨.invalidAddress, 0x200, some 0x11FF, .address 0x1FF⟩) = true := by decide

/-- T2.2. -/
theorem test_call_T2_2 : after (exec (.call 0x300) { start with sp := 15 })
    (fun t => t.sp == 16 && t.stack.get 15 == 0x200 && t.pc == 0x300) = true := by decide

/-- T2.5: the stack's fault comes before the target's. -/
theorem test_call_T2_5 : haltsWith (exec (.call 0x100) { start with sp := 16 })
    ⟨.stackOverflow, 0x200, some 0x2100, .none⟩ = true := by decide

/-- TB.5. -/
theorem test_jpV0_TB_5 : after (exec (.jpV0 0x300) (withRegs (regs [0x05, 0, 0, 0x50])))
    (fun t => t.pc == 0x305) = true := by decide

/-- TB.2. -/
theorem test_jpV0_TB_2 : haltsWith (exec (.jpV0 0xFFF) (withRegs (regs [0x01])))
    ⟨.invalidAddress, 0x200, some 0xBFFF, .address 0⟩ = true := by decide

/-! ## Conditional skips (vectors TS, TE) -/

/-- TS.1. -/
theorem test_seImm_TS_1 : after (exec (.seImm 2 0x05) (withRegs (regAt 2 0x05)))
    (fun t => t.skip == 1 && t.pc == 0x202) = true := by decide

/-- TS.2. -/
theorem test_seImm_TS_2 : after (exec (.seImm 2 0x06) (withRegs (regAt 2 0x05)))
    (fun t => t.skip == 0 && t.pc == 0x202) = true := by decide

/-- TS.3. -/
theorem test_sneImm_TS_3 : after (exec (.sneImm 2 0x06) (withRegs (regAt 2 0x05)))
    (fun t => t.skip == 1 && t.pc == 0x202) = true := by decide

/-- TS.4. -/
theorem test_sneImm_TS_4 : after (exec (.sneImm 2 0x05) (withRegs (regAt 2 0x05)))
    (fun t => t.skip == 0) = true := by decide

/-- TS.6. -/
theorem test_seReg_TS_6 : after (exec (.seReg 1 3) (withRegs (regs [0, 0x7F, 0, 0x7F]))) (fun t => t.skip == 1) = true := by
  decide

/-- TS.7. -/
theorem test_seReg_TS_7 : after (exec (.seReg 1 3) (withRegs (regs [0, 1, 0, 2]))) (fun t => t.skip == 0) = true := by
  decide

/-- TS.10. -/
theorem test_sneReg_TS_10 : after (exec (.sneReg 1 3) (withRegs (regs [0, 1, 0, 2]))) (fun t => t.skip == 1) = true := by
  decide

/-- TS.11. -/
theorem test_sneReg_TS_11 : after (exec (.sneReg 5 5) (withRegs (regAt 5 9))) (fun t => t.skip == 0) = true := by decide

/-- TE.1, TE.2. -/
theorem test_skp_TE_1 : after (exec (.skp 4) { withRegs (regAt 4 0x0A) with keys := 0x0400 }) (fun t => t.skip == 1) = true ∧
    after (exec (.skp 4) { withRegs (regAt 4 0x0A) with keys := 0xFBFF }) (fun t => t.skip == 0) = true := by decide

/-- TE.5. -/
theorem test_skp_TE_5 : haltsWith (exec (.skp 4) (withRegs (regAt 4 0x10)))
    ⟨.keyRange, 0x200, some 0xE49E, .value 0x10⟩ = true := by decide

/-- TE.3, TE.4. -/
theorem test_sknp_TE_3 : after (exec (.sknp 4) { withRegs (regAt 4 0x0A) with keys := 0x0400 }) (fun t => t.skip == 1) = true ∧
    after (exec (.sknp 4) { withRegs (regAt 4 0x0A) with keys := 0xFBFF }) (fun t => t.skip == 0) = true := by decide

/-- TE.6. -/
theorem test_sknp_TE_6 : haltsWith (exec (.sknp 4) (withRegs (regAt 4 0xFF)))
    ⟨.keyRange, 0x200, some 0xE4A1, .value 0xFF⟩ = true := by decide

/-! ## Data and ALU (vectors T8) -/

/-- T8.2. -/
theorem test_ldImm_T8_2 : after (exec (.ldImm 15 0x00) (withRegs (regAt 15 0x07)))
    (fun t => t.v == regs [] && t.pc == 0x202) = true := by decide

/-- T8.3: no carry flag. -/
theorem test_addImm_T8_3 : after (exec (.addImm 0 0x01) (withRegs ((regs [0xFF]).set 15 0x07)))
    (fun t => t.v == regAt 15 0x07) = true := by decide

/-- T8.4. -/
theorem test_addImm_T8_4 : after (exec (.addImm 15 0x01) (withRegs (regAt 15 0x01))) (fun t => t.v == regAt 15 0x02) = true := by
  decide

/-- T8.5. -/
theorem test_ldReg_T8_5 : after (exec (.ldReg 0 1) (withRegs (regs [0x10, 0x20]))) (fun t => t.v == regs [0x20, 0x20]) = true := by
  decide

/-- T8.6. -/
theorem test_orReg_T8_6 : after (exec (.orReg 0 1) (withRegs ((regs [0xF0, 0x3C]).set 15 0x55)))
    (fun t => t.v == (regs [0xFC, 0x3C]).set 15 0x55) = true := by decide

/-- T8.7. -/
theorem test_andReg_T8_7 : after (exec (.andReg 0 1) (withRegs ((regs [0xF0, 0x3C]).set 15 0x55)))
    (fun t => t.v == (regs [0x30, 0x3C]).set 15 0x55) = true := by decide

/-- T8.8. -/
theorem test_xorReg_T8_8 : after (exec (.xorReg 0 1) (withRegs ((regs [0xF0, 0x3C]).set 15 0x55)))
    (fun t => t.v == (regs [0xCC, 0x3C]).set 15 0x55) = true := by decide

/-- T8.13: the flag is written last. -/
theorem test_addReg_T8_13 : after (exec (.addReg 15 1) (withRegs ((regs [0, 0x01]).set 15 0xFF)))
    (fun t => t.reg 15 == 1) = true := by decide

/-- T8.12 and T8.14: a sum of exactly 255, and VF as the source. -/
theorem test_addReg_T8_12 : after (exec (.addReg 0 1) (withRegs (regs [0x7F, 0x80])))
      (fun t => t.reg 0 == 0xFF && t.reg 15 == 0) = true ∧
    after (exec (.addReg 0 15) (withRegs ((regs [0x80]).set 15 0x80))) (fun t => t.reg 0 == 0 && t.reg 15 == 1) = true := by
  decide

/-- T8.17: equal operands give flag 0. -/
theorem test_subReg_T8_17 : after (exec (.subReg 0 1) (withRegs (regs [5, 5]))) (fun t => t.reg 0 == 0 && t.reg 15 == 0) = true := by
  decide

/-- T8.15, T8.16. -/
theorem test_subReg_T8_15 : after (exec (.subReg 0 1) (withRegs (regs [5, 3]))) (fun t => t.reg 0 == 2 && t.reg 15 == 1) = true ∧
    after (exec (.subReg 0 1) (withRegs (regs [3, 5]))) (fun t => t.reg 0 == 0xFE && t.reg 15 == 0) = true := by decide

/-- T8.19, T8.20. -/
theorem test_subnReg_T8_19 : after (exec (.subnReg 0 1) (withRegs (regs [3, 5]))) (fun t => t.reg 0 == 2 && t.reg 15 == 1) = true ∧
    after (exec (.subnReg 0 1) (withRegs (regs [5, 3]))) (fun t => t.reg 0 == 0xFE && t.reg 15 == 0) = true := by decide

/-- T8.25: V[Y] is not read. -/
theorem test_shr_T8_25 : after (exec (.shr 0 1) (withRegs (regs [0x02, 0xFF]))) (fun t => t.reg 0 == 1 && t.reg 15 == 0) = true := by
  decide

/-- T8.26. -/
theorem test_shr_T8_26 : after (exec (.shr 15 15) (withRegs (regAt 15 0x81))) (fun t => t.reg 15 == 0) = true := by decide

/-- T8.30. -/
theorem test_shl_T8_30 : after (exec (.shl 4 4) (withRegs (regAt 4 0xC1))) (fun t => t.reg 4 == 0x82 && t.reg 15 == 1) = true := by
  decide

/-- T8.31, T8.32. -/
theorem test_shl_T8_31 : after (exec (.shl 15 0) (withRegs (regAt 15 0x80))) (fun t => t.reg 15 == 2) = true ∧
    after (exec (.shl 15 0) (withRegs (regAt 15 0x40))) (fun t => t.reg 15 == 0) = true := by decide

/-- T8.37. -/
theorem test_ldI_T8_37 : after (exec (.ldI 0xFFF) start) (fun t => t.i == 0x0FFF && t.pc == 0x202) = true := by decide

/-- T8.38, T8.39: the byte drawn is 0xB7. -/
theorem test_rnd_T8_38 : (start.setRandom 1 0x0F 0xB7).reg 1 = 0x07 ∧ (start.setRandom 1 0xFF 0xB7).reg 1 = 0xB7 := by decide

/-- T8.40: any draw. -/
theorem test_rnd_T8_40 : ∀ r : Byte, (start.setRandom 1 0x00 r).reg 1 = 0x00 := by
  intro r
  simp [State.setRandom, State.reg, State.setReg, Vector.get_eq_getElem]

/-! ## Drawing (vectors TD), with the default glyph table and GLYPH_BASE 0 -/

/-- One row of pixels, as a 64-bit row. -/
def rowAt (py : Nat) (r : BitVec 64) : Framebuffer := blankCanvas.setIfInBounds py r

/-- TD.3: columns and rows past the edge are reduced. -/
theorem test_drw_TD_3 : okAnd (State.drawWith 0 Config.defaultFont
      { withRegs (regs [62, 31]) with i := 0x300, mem := [(0x300, 0x81)] } 0 1 1)
    (fun t => t.fb == rowAt 31 0x4000000000000020 && t.reg 15 == 0) = true := by decide

/-- TD.1 and TD.2: drawing twice. -/
theorem test_drw_TD_2 : okAnd (State.drawWith 0 Config.defaultFont
      { start with i := 0x300, mem := [(0x300, 0xFF)], fb := rowAt 0 0xFF } 0 1 1)
    (fun t => t.fb == blankCanvas && t.reg 15 == 1) = true := by decide

/-! ## Family F (vectors TF) -/

/-- TF.1. -/
theorem test_ldVxDt_TF_1 : after (exec (.ldVxDt 5) { start with dt := 0x3C }) (fun t => t.reg 5 == 0x3C) = true := by decide

/-- TF.3: the wait. -/
theorem test_ldVxK_TF_3 : after (exec (.ldVxK 2) start) (fun t => t.run == .waitingKey 2 && t.pc == 0x200) = true := by decide

/-- TF.4: the resumption. -/
theorem test_ldVxK_TF_4 : (resumeKey 15 0xC { withRegs (regAt 15 0x33) with run := .waitingKey 15 }).v = regAt 15 0x0C ∧
    (resumeKey 15 0xC { withRegs (regAt 15 0x33) with run := .waitingKey 15 }).pc = 0x202 ∧
    (resumeKey 15 0xC { withRegs (regAt 15 0x33) with run := .waitingKey 15 }).run = .running := by decide

/-- TF.5. -/
theorem test_ldDtVx_TF_5 : after (exec (.ldDtVx 1) (withRegs (regAt 1 60))) (fun t => t.dt == 60 && t.st == 0) = true := by decide

/-- TF.6, TF.7. -/
theorem test_ldStVx_TF_6 : after (exec (.ldStVx 1) (withRegs (regAt 1 2))) (fun t => t.st == 2 && t.soundActive) = true ∧
    after (exec (.ldStVx 1) { start with st := 9 }) (fun t => t.st == 0 && !t.soundActive) = true := by decide

/-- TF.9: the sum wraps and no flag is written. -/
theorem test_addI_TF_9 : after (exec (.addI 0) { withRegs ((regs [0x01]).set 15 0xAA) with i := 0xFFFF })
    (fun t => t.i == 0 && t.reg 15 == 0xAA) = true := by decide

/-- TF.10, for the GLYPH_BASE 0x50. -/
theorem test_ldF_TF_10 : okAnd (State.pointAtGlyph 0x50 (withRegs (regAt 0 0x0A)) 0) (fun t => t.i == 0x5A) = true := by decide

/-- TF.11. -/
theorem test_ldF_TF_11 : State.pointAtGlyph 0x50 (withRegs (regAt 0 0x10)) 0 = .error ⟨.glyphRange, .glyph 0x10 0⟩ := rfl

/-- TF.12, TF.13: the stored digits, zeros among them. -/
theorem test_ldB_TF_12 : after (exec (.ldB 3) { withRegs (regAt 3 0x9C) with i := 0x400 })
      (fun t => t.mem == [(0x400, 1), (0x401, 5), (0x402, 6)] && t.i == 0x400) = true ∧
    after (exec (.ldB 3) { start with i := 0x400, mem := [(0x400, 0xFF), (0x401, 0xFF), (0x402, 0xFF)] })
      (fun t => t.mem == []) = true := by decide

/-- TF.15: nothing is stored when the last byte faults. -/
theorem test_ldB_TF_15 : after (exec (.ldB 3) { withRegs (regAt 3 0x7B) with i := 0xFFE, mem := [(0xFFE, 0xAA), (0xFFF, 0xBB)] })
    (fun t => t.mem == [(0xFFE, 0xAA), (0xFFF, 0xBB)] &&
      t.run == .halted ⟨.invalidAddress, 0x200, some 0xF333, .address 0x1000⟩) = true := by decide

/-- TF.16. -/
theorem test_storeRegs_TF_16 : after (exec (.storeRegs 1) { withRegs (regs [1, 2, 3]) with i := 0x500 })
    (fun t => t.mem == [(0x500, 1), (0x501, 2)] && t.i == 0x502) = true := by decide

/-- TF.19. -/
theorem test_storeRegs_TF_19 : after (exec (.storeRegs 15) { start with i := 0xFF8 }) (fun t => t.i == 0xFF8 && t.mem == [] &&
    t.run == .halted ⟨.invalidAddress, 0x200, some 0xFF55, .address 0x1000⟩) = true := by decide

/-- TF.20. -/
theorem test_loadRegs_TF_20 : after (exec (.loadRegs 1) { withRegs (regs [9, 9, 9]) with i := 0x500, mem := [(0x500, 1), (0x501, 2)] })
    (fun t => t.v == regs [1, 2, 9] && t.i == 0x502) = true := by decide

/-- TF.22, for an address of the reserved low range. -/
theorem test_loadRegs_TF_22 : haltsWith (exec (.loadRegs 0) { start with i := 0x50 })
    ⟨.invalidAddress, 0x200, some 0xF065, .address 0x50⟩ = true := by decide

/-! ## The loop (vectors TX, TT, TS) -/

/-- TX.1, S8: a step fetches the high byte first. -/
theorem test_step_TX_1 : after (step (withWord 0x200 0x6005)) (fun t => t.reg 0 == 5 && t.pc == 0x202) = true := by decide

/-- TX.2: the second byte of the fetch is outside the window. -/
theorem test_step_TX_2 : haltsWith (step { start with pc := 0xFFF }) ⟨.invalidAddress, 0xFFF, none, .address 0x1000⟩ = true := by
  decide

/-- P0's third iteration: an illegal word. -/
theorem test_step_illegal : haltsWith (step start) ⟨.invalidOperand, 0x200, some 0, .word 0⟩ = true := by decide

/-- TS.13, second part: consuming a skip faults with no word. -/
theorem test_step_TS_13 : after (step { start with pc := 0xFFE, skip := 1 }) (fun t => t.skip == 1 &&
    t.run == .halted ⟨.invalidAddress, 0xFFE, none, .address 0x1000⟩) = true := by decide

/-- TS.14: the illegal word at the PC is skipped unread. -/
theorem test_step_TS_14 : after (step { withWord 0x202 0xFFFF with skip := 1 }) (fun t => t.skip == 0 && t.pc == 0x204 &&
    t.run == .running) = true := by decide

/-- TT.4. -/
theorem test_timers_TT_4 : (State.timersAdvance { start with dt := 9, acc := 1 / 120 } (1 / 30)).dt = 7 ∧
    (State.timersAdvance { start with dt := 9, acc := 1 / 120 } (1 / 30)).acc = 1 / 120 := by
  have h : ticksIn ((1 / 120 : Rat) + 1 / 30) = 2 := ticksIn_eq (by norm_num [Config.tick]) (by norm_num [Config.tick])
  unfold State.timersAdvance
  simp only [h]
  constructor
  · decide
  · norm_num [Config.tick]

/-- TT.2: floored at 0. -/
theorem test_timers_TT_2 : timerAfter 2 3 = 0 ∧ timerAfter 1 3 = 0 ∧ ticksIn (3 / 60) = 3 :=
  ⟨by decide, by decide, ticksIn_eq (by norm_num [Config.tick]) (by norm_num [Config.tick])⟩

/-- TF.2: a FX07 after two ticks. -/
theorem test_timers_TF_2 : timerAfter 0x3C 2 = 0x3A := by decide

/-- R62: the image goes to BASE on; a zero byte stays unlisted. -/
theorem test_load : after (State.reset.load [0x60, 0x05, 0x00, 0x03])
    (fun t => t.mem == [(0x200, 0x60), (0x201, 0x05), (0x203, 0x03)]) = true := by decide

/-- R292, R277: boot, and the first iteration of a loop started without it. -/
theorem test_boot : after (boot [0x60, 0x05]) (fun t => t.extents == some (64, 32) && !t.started) = true ∧
    after (step (withWord 0x200 0x6005)) (fun t => t.extents == some (64, 32) && t.started) = true := by decide

/-- The host's placing of a word makes the next step run it. -/
theorem test_withFetchWord : after (step (State.reset.withFetchWord 16 0x6A9C)) (fun t => t.reg 10 == 0x9C) = true := by decide

/-! ## Witnesses: for every statement with hypotheses, a state and operands that meet them

Each is named after its statement. A statement of several clauses has a witness for each clause. -/

/-- `start` meets the invariant. -/
theorem start_inv : MachineInv start where
  memory := rfl
  pc := by decide
  skip := by decide
  waiting := fun x h => by cases h
  accNonneg := le_refl (0 : Rat)
  accBelowTick := by show (0 : Rat) < 1 / 60; norm_num
  blocked := le_refl (0 : Rat)
  stack := fun k h => absurd h (Nat.not_lt_zero _)

theorem witness_EveryStepKeepsTheInvariant : MachineInv start ∧ ∃ t, step start = .next t :=
  ⟨start_inv, (of_haltsWith test_step_illegal).imp fun _ h => h.1⟩

/-- An image of two bytes: the last address the image fills, and those next to it, which it does not. -/
theorem witness_LoadCopiesTheImage : start.started = false ∧ start.mem.wf = true ∧ MachineInv start ∧
    1 < min ([0x60, 0x05] : List Byte).length Config.memSize ∧
    ¬ (Config.base ≤ 0x1FF ∧ 0x1FF < Config.base + min ([0x60, 0x05] : List Byte).length Config.memSize) ∧
    ¬ (Config.base ≤ 0x202 ∧ 0x202 < Config.base + min ([0x60, 0x05] : List Byte).length Config.memSize) :=
  ⟨rfl, rfl, start_inv, by decide, by decide, by decide⟩

theorem witness_LoadIsRefusedOnceTheLoopRuns : ({ start with started := true } : State).started = true ∧
    start.run = .running ∧ ∃ t, step start = .next t :=
  ⟨rfl, rfl, (of_haltsWith test_step_illegal).imp fun _ h => h.1⟩

theorem witness_EncodeOfDecodeIsTheWord : decodeWord 0x8FFE = .ok (.shl 15 15) := by decide

theorem witness_AWordMatchesAtMostOneRow : (⟨"00EE", 0xFFFF, 0x00EE⟩ : OpRow) ∈ opcodeRows ∧
    OpRow.hit ⟨"00EE", 0xFFFF, 0x00EE⟩ 0x00EE = true := by decide

/-- At both ends of the window. -/
theorem witness_StepRunsTheDecodedInstruction : start.run = .running ∧ start.skip = 0 ∧
    (InWindow (0x200 : Word).toNat ∧ InWindow ((0x200 : Word).toNat + 1) ∧
      decodeBytes ((withWord 0x200 0xA123).mem.read 0x200) ((withWord 0x200 0xA123).mem.read 0x201) = .ok (.ldI 0x123)) ∧
    (InWindow (0xFFE : Word).toNat ∧ InWindow ((0xFFE : Word).toNat + 1) ∧
      decodeBytes ((withWord 0xFFE 0xA123).mem.read 0xFFE) ((withWord 0xFFE 0xA123).mem.read 0xFFF) = .ok (.ldI 0x123)) := by
  decide

/-- Each clause, at its boundary. -/
theorem witness_FetchOutsideTheWindowHalts : start.run = .running ∧ start.skip = 0 ∧ ¬ InWindow (0x1FF : Word).toNat ∧
    ¬ InWindow (0x1000 : Word).toNat ∧ InWindow (0xFFF : Word).toNat ∧ ¬ InWindow ((0xFFF : Word).toNat + 1) := by decide

theorem witness_IllegalWordHalts : start.run = .running ∧ start.skip = 0 ∧ InWindow start.pc.toNat ∧
    InWindow (start.pc.toNat + 1) ∧ (0 : Word) = wordOfBytes (start.mem.read start.pc.toNat) (start.mem.read (start.pc.toNat + 1)) ∧
    wellFormedWord 0 = false := by decide

/-- Each clause: the last PC that can advance, and the first that cannot. -/
theorem witness_PendingSkipIsConsumedUnread :
    (∀ pc : Word, ({ start with pc := pc, skip := 1 } : State).run = .running) ∧ 0 < 1 ∧
    CanAdvance { start with pc := 0xFFD, skip := 1 } ∧ ¬ CanAdvance { start with pc := 0xFFE, skip := 1 } :=
  ⟨fun _ => rfl, by decide, by decide, by decide⟩

/-- Each clause, at the highest PC for the first; the condition of an SE that holds and of one that does not, and for SKP
under a snapshot with key A down and one with key A up. -/
theorem witness_SkipTakesEffectOneIterationLate :
    (InWindow (0xFFB : Word).toNat ∧ InWindow ((0xFFB : Word).toNat + 2) ∧ InWindow ((0xFFB : Word).toNat + 4) ∧
      decodeBytes ((withWord 0xFFB 0x3205).mem.read 0xFFB) ((withWord 0xFFB 0x3205).mem.read 0xFFC) = .ok (.seImm 2 0x05)) ∧
    skipCondition (.seImm 2 0x05) ({ withWord 0xFFB 0x3205 with v := regAt 2 0x05 } : State).beforePhaseD = some true ∧
    skipCondition (.seImm 2 0x05) ({ withWord 0xFFB 0x3205 with v := regAt 2 0x06 } : State).beforePhaseD = some false ∧
    skipCondition (.skp 4) { withRegs (regAt 4 0x0A) with keys := 0x0400 } = some true ∧
    skipCondition (.sknp 4) { withRegs (regAt 4 0x0A) with keys := 0xFBFF } = some false := by decide

/-- A CALL at the reset PC whose target holds a RET, with an empty stack and with one free entry. -/
theorem witness_CallThenReturnLandsAfterTheCall :
    (0 : Fin 17).val < 16 ∧ (15 : Fin 17).val < 16 ∧ InWindow (0x300 : Imm12).toNat ∧ InWindow ((0x300 : Imm12).toNat + 1) ∧
    decodeBytes (Memory.read [(0x200, 0x23), (0x301, 0xEE)] 0x200) (Memory.read [(0x200, 0x23), (0x301, 0xEE)] 0x201) =
      .ok (.call 0x300) ∧
    decodeBytes (Memory.read [(0x200, 0x23), (0x301, 0xEE)] 0x300) (Memory.read [(0x200, 0x23), (0x301, 0xEE)] 0x301) =
      .ok .ret := by decide

theorem witness_HaltedBlockNeverSteps : ({ start with run := .halted ⟨.stackOverflow, 0x200, some 0x2300, .none⟩ } : State).run =
    .halted ⟨.stackOverflow, 0x200, some 0x2300, .none⟩ := rfl

theorem witness_UnreachableKindsAreNeverRaised : ∃ t, step start = .next t ∧
    t.run = .halted ⟨.invalidOperand, 0x200, some 0, .word 0⟩ := of_haltsWith test_step_illegal

/-- A fault that leaves a cleared display behind, and one that leaves a draw taken. -/
theorem witness_FaultsArePrecise :
    (∃ t, exec .cls { start with pc := 0xFFE, fb := Vector.replicate 32 1 } = .next t ∧
      (t.fb != Vector.replicate 32 1 && t.run == .halted ⟨.invalidAddress, 0xFFE, some 0x00E0, .address 0x1000⟩) = true) ∧
    (∃ t, exec (.rnd 1 0) { start with pc := 0xFFE } = .next t ∧
      (t.draws != 0 && t.run == .halted ⟨.invalidAddress, 0xFFE, some 0xC100, .address 0x1000⟩) = true) :=
  ⟨of_after (by decide), of_after (by decide)⟩

theorem witness_InstructionsRaiseOnlyTheirKinds : start.run = .running ∧
    ∃ t, exec .ret start = .next t ∧ t.run = .halted ⟨.stackUnderflow, 0x200, some 0x00EE, .none⟩ :=
  ⟨rfl, of_haltsWith (by decide)⟩

/-- An instruction in mid window completes; the last PC at which it does, and the first at which it faults on the advance. For
every statement that says so with `CompletesOrFaultsOnAdvance`. -/
theorem witness_CompletesOrFaultsOnAdvance : CanAdvance start ∧ CanAdvance { start with pc := 0xFFD } ∧
    ¬ CanAdvance { start with pc := 0xFFE } := by decide

theorem witness_RetPopsAndThenAdvances : start.sp = 0 ∧ (1 : Fin 17) = (0 : Fin 16).succ ∧ (16 : Fin 17) = (15 : Fin 16).succ ∧
    InWindow (((Vector.replicate 16 (0xFFD : Word)).get 15).toNat + 2) ∧
    ¬ InWindow (((Vector.replicate 16 (0xFFE : Word)).get 15).toNat + 2) := by decide

theorem witness_JpJumpsToItsTarget : InWindow (0x200 : Imm12).toNat ∧ InWindow (0xFFF : Imm12).toNat ∧
    ¬ InWindow (0x1FF : Imm12).toNat := by decide

theorem witness_CallPushesItsOwnAddress : ({ start with sp := 16 } : State).sp = 16 ∧ (0 : Fin 17) = (0 : Fin 16).castSucc ∧
    (15 : Fin 17) = (15 : Fin 16).castSucc ∧ InWindow (0xFFF : Imm12).toNat ∧ ¬ InWindow (0x1FF : Imm12).toNat := by decide

/-- The last target, and one that wraps to 0. -/
theorem witness_JpV0WrapsAtTwelveBits : 0xFFF = ((0xF00 : Imm12).toNat + ((withRegs (regs [0xFF])).reg 0).toNat) % 0x1000 ∧
    InWindow 0xFFF ∧ 0 = ((0xFFF : Imm12).toNat + ((withRegs (regs [0x01])).reg 0).toNat) % 0x1000 ∧ ¬ InWindow 0 := by decide

theorem witness_RegisterSkipsCompareTwoRegisters : (1 : Fin 16) ≠ 0 ∧ (15 : Fin 16) ≠ 0 ∧
    (0x5131 = fieldsXYN 0x5000 1 3 1 ∧ fetch (withWord 0x200 0x5131) = .ok 0x5131) ∧
    (0x913F = fieldsXYN 0x9000 1 3 15 ∧ fetch (withWord 0x200 0x913F) = .ok 0x913F) ∧
    (withWord 0x200 0x5131).run = .running ∧ (withWord 0x200 0x5131).skip = 0 :=
  ⟨by decide, by decide, ⟨by decide, by decide⟩, ⟨by decide, by decide⟩, rfl, rfl⟩

theorem witness_BothKeySkipsTestKeyDown : ((withRegs (regAt 4 15)).reg 4).toNat ≤ 15 ∧
    15 < ((withRegs (regAt 4 16)).reg 4).toNat := by decide

theorem witness_AddSetsTheCarryLast : 255 = ((withRegs (regs [255, 1])).reg 0).toNat ∧ 1 = ((withRegs (regs [255, 1])).reg 1).toNat := by
  decide

theorem witness_SubtractionsSetTheNotBorrowLast : 3 = ((withRegs (regs [3, 5])).reg 0).toNat ∧
    5 = ((withRegs (regs [3, 5])).reg 1).toNat := by decide

theorem witness_ShiftsWriteTheFlagFirst : 0x81 = ((withRegs (regAt 15 0x81)).reg 15).toNat ∧ (14 : RegIx) ≠ 15 := by decide

/-- Each clause: a whole sprite in the window up to its last byte; its last row outside; I at the window's end; and I in the
reserved low range outside glyph space, whatever GLYPH_BASE is. -/
theorem witness_DrawFromMemory : (3 : Fin 16) ≠ 0 ∧ (∀ k < (3 : Fin 16).val, InWindow ((0xFFD : Word).toNat + k)) ∧
    (Config.base ≤ (0xFFE : Word).toNat ∧ (∀ k < 2, InWindow ((0xFFE : Word).toNat + k)) ∧ ¬ InWindow ((0xFFE : Word).toNat + 2)) ∧
    (Config.base ≤ (0x1000 : Word).toNat ∧ ¬ InWindow ((0x1000 : Word).toNat + 0)) ∧
    ∃ i : Word, i.toNat < Config.base ∧ ¬ (Config.glyphBase ≤ i.toNat ∧ i.toNat < Config.glyphBase + 16) := by
  refine ⟨by decide, by decide, by decide, by decide, ?_⟩
  by_cases h : Config.glyphBase = 0
  · exact ⟨16, by decide, by simp [h]⟩
  · exact ⟨0, by decide, by simp [h]⟩

/-- The last glyph, at heights 5 and 6. -/
theorem witness_DrawFromTheGlyphTable : ∃ i : Word, i.toNat = Config.glyphBase + (15 : Fin 16).val ∧
    (5 : Fin 16) ≠ 0 ∧ (5 : Fin 16).val ≤ 5 ∧ (6 : Fin 16) ≠ 0 ∧ 5 < (6 : Fin 16).val := by
  have h := glyphBase_bound
  simp only [Config.base] at h
  refine ⟨BitVec.ofNat 16 (Config.glyphBase + 15), ?_, by decide, by decide, by decide, by decide⟩
  rw [BitVec.toNat_ofNat]
  show _ % 2 ^ 16 = Config.glyphBase + 15
  omega

/-- A sprite of one row at I = 0x300, on a display with every pixel unset. -/
def sprite (b : Byte) : State := { start with i := 0x300, mem := Memory.write [] 0x300 b }

theorem sprite_rows (b : Byte) : spriteRows Config.glyphBase Config.font (sprite b).mem (sprite b).i.toNat (1 : Fin 16).val =
    .ok [(sprite b).mem.read 0x300] := by
  have hg := glyphBase_bound
  have hi : (sprite b).i.toNat = 0x300 := rfl
  simp only [Config.base] at hg
  rw [spriteRows_memory _ _ _ _ _ (by decide) (by omega) (by rw [hi]; decide)]
  rfl

/-- Its one row, for a set bit and for none; the first draw leaves V0 and V1; no pixel is set. -/
theorem witness_DrawingTwiceRestoresTheDisplay :
    (∀ b, ∃ rows, spriteRows Config.glyphBase Config.font (sprite b).mem (sprite b).i.toNat (1 : Fin 16).val = .ok rows ∧
      InWindow ((sprite b).pc.toNat + 2) ∧ InWindow ((sprite b).pc.toNat + 4) ∧
      ∃ t, exec (.drw 0 1 1) (sprite b) = .next t ∧ t.reg 0 = (sprite b).reg 0 ∧ t.reg 1 = (sprite b).reg 1) ∧
    (∃ r ∈ [(sprite 0xFF).mem.read 0x300], r ≠ 0) ∧ (∀ px < 64, ∀ py < 32, pixel (sprite 0xFF).fb px py = false) ∧
    (∀ r ∈ [(sprite 0).mem.read 0x300], r = 0) := by
  refine ⟨fun b => ?_, by decide, by decide, by decide⟩
  have hc : CanAdvance (sprite b) := by show InWindow (0x200 + 2); decide
  obtain ⟨fb, c, _, _, h, _⟩ := drw_draws (x := 0) (y := 1) (n := 1) (sprite_rows b) (by simp)
  exact ⟨_, sprite_rows b, hc, by show InWindow (0x200 + 4); decide, _, h hc, by cases c <;> rfl, by cases c <;> rfl⟩

/-- What the input contract answers is a constant with no body: nothing or a key, so that one of the two clauses applies to
every state. The last PC that can advance, and the first that cannot. -/
theorem witness_KeyWaitEndsOnlyWithAKey : ({ start with run := .waitingKey 15 } : State).run = .waitingKey 15 ∧
    (∀ n, Config.keyEvent n = none ∨ ∃ k, Config.keyEvent n = some k) ∧
    CanAdvance { start with pc := 0xFFD, run := .waitingKey 15 } ∧
    ¬ CanAdvance { start with pc := 0xFFE, run := .waitingKey 15 } := by
  refine ⟨rfl, fun n => ?_, by decide, by decide⟩
  cases h : Config.keyEvent n with
  | none => exact .inl rfl
  | some k => exact .inr ⟨k, rfl⟩

theorem witness_PointingAtAGlyph : ((withRegs (regAt 0 15)).reg 0).toNat ≤ 15 ∧ 15 < ((withRegs (regAt 0 16)).reg 0).toNat := by
  decide

/-- Each clause: at both ends of the window, and a fault on the first and on the third byte. -/
theorem witness_DecimalDigitsAreStoredInOrder : start.mem.wf = true ∧ 0x9C = ((withRegs (regAt 3 0x9C)).reg 3).toNat ∧
    (InWindow (0x200 : Word).toNat ∧ InWindow ((0x200 : Word).toNat + 2)) ∧
    (InWindow (0xFFD : Word).toNat ∧ InWindow ((0xFFD : Word).toNat + 2)) ∧ ¬ InWindow ((0x1FF : Word).toNat + 0) ∧
    (∀ k < 2, InWindow ((0xFFE : Word).toNat + k)) ∧ ¬ InWindow ((0xFFE : Word).toNat + 2) := by decide

/-- Each clause, for one register and for all: at the end of the window, and a fault on the first and on the last byte. -/
theorem witness_RegistersAreStoredInOrder : start.mem.wf = true ∧
    (InWindow (0xFFF : Word).toNat ∧ InWindow ((0xFFF : Word).toNat + (0 : RegIx).val)) ∧
    (InWindow (0xFF0 : Word).toNat ∧ InWindow ((0xFF0 : Word).toNat + (15 : RegIx).val)) ∧
    (0 ≤ (0 : RegIx).val ∧ ¬ InWindow ((0x1FF : Word).toNat + 0)) ∧
    (∀ k < 15, InWindow ((0xFF1 : Word).toNat + k)) ∧ ¬ InWindow ((0xFF1 : Word).toNat + 15) := by decide

/-- The same addresses serve for the loads. -/
theorem witness_RegistersAreLoadedInOrder :
    (InWindow (0xFFF : Word).toNat ∧ InWindow ((0xFFF : Word).toNat + (0 : RegIx).val)) ∧
    (InWindow (0xFF0 : Word).toNat ∧ InWindow ((0xFF0 : Word).toNat + (15 : RegIx).val)) ∧
    (0 ≤ (0 : RegIx).val ∧ ¬ InWindow ((0x1FF : Word).toNat + 0)) ∧
    (∀ k < 15, InWindow ((0xFF1 : Word).toNat + k)) ∧ ¬ InWindow ((0xFF1 : Word).toNat + 15) := by decide

theorem witness_TimerPhaseTurnsTimeIntoTicks : 0 ≤ start.acc ∧ 0 ≤ start.blocked := ⟨le_refl (0 : Rat), le_refl (0 : Rat)⟩

/-- TT.4 and TT.6 in one: half a tick kept, then three times a hundredth of a second, 2 ticks. -/
theorem witness_TimersOverAStretchOfPhases : (0 : Rat) ≤ 1 / 120 ∧ (1 : Rat) / 120 < 1 / 60 ∧
    (∀ d ∈ [(1 : Rat) / 100, 1 / 100, 1 / 100], 0 ≤ d) ∧
    ((2 : Nat) : Rat) * (1 / 60) ≤ 1 / 120 + [(1 : Rat) / 100, 1 / 100, 1 / 100].sum ∧
    1 / 120 + [(1 : Rat) / 100, 1 / 100, 1 / 100].sum < (((2 : Nat) : Rat) + 1) * (1 / 60) := by
  refine ⟨by norm_num, by norm_num, ?_, by norm_num, by norm_num⟩
  intro d hd
  simp only [List.mem_cons, List.not_mem_nil, or_false] at hd
  rcases hd with rfl | rfl | rfl <;> norm_num

/-- Each clause: a step that raises DT from 0 and one that raises ST from 0. -/
theorem witness_TimersRiseOnlyByTheirWrites :
    (∃ t, step { withWord 0x200 0xF115 with v := regAt 1 60 } = .next t ∧ (t.dt == 60) = true) ∧
    (∃ t, step { withWord 0x200 0xF118 with v := regAt 1 60 } = .next t ∧ (t.st == 60) = true) :=
  ⟨of_after (by decide), of_after (by decide)⟩

theorem witness_TicksComeBeforeTheInstruction : start.run = .running ∧ start.skip = 0 ∧ InWindow (0xFFD : Word).toNat ∧
    InWindow ((0xFFD : Word).toNat + 2) ∧
    decodeBytes ((withWord 0xFFD 0xF507).mem.read 0xFFD) ((withWord 0xFFD 0xF507).mem.read 0xFFE) = .ok (.ldVxDt 5) ∧
    decodeBytes ((withWord 0xFFD 0xF515).mem.read 0xFFD) ((withWord 0xFFD 0xF515).mem.read 0xFFE) = .ok (.ldDtVx 5) := by decide

theorem witness_OutputsFollowTheState : ({ start with st := 1 } : State).st ≠ 0 ∧
    ({ start with run := .halted ⟨.stackUnderflow, 0x200, some 0x00EE, .none⟩ } : State).run =
      .halted ⟨.stackUnderflow, 0x200, some 0x00EE, .none⟩ := ⟨by decide, rfl⟩

/-- A register outside the list of the registers written. -/
theorem witness_OtherRegistersAreUnchanged : (14 : RegIx) ∉ writtenRegs (.shr 4 4) ∧
    ∃ t, exec (.shr 4 4) (withRegs (regAt 4 0x81)) = .next t ∧ (t.reg 4 == 0x40) = true := ⟨by decide, of_after (by decide)⟩

/-- The addresses next to the three stored bytes. -/
theorem witness_OtherBytesAreUnchanged : start.mem.wf = true ∧
    ¬ (0x400 ≤ 0x3FF ∧ 0x3FF < 0x400 + storedBytes (.ldB 3)) ∧ ¬ (0x400 ≤ 0x403 ∧ 0x403 < 0x400 + storedBytes (.ldB 3)) ∧
    ∃ t, exec (.ldB 3) { withRegs (regAt 3 0x9C) with i := 0x400 } = .next t ∧ (t.mem.read 0x402 == 6) = true :=
  ⟨by decide, by decide, by decide, of_after (by decide)⟩

/-- One instruction that none of the clauses excludes. -/
theorem witness_OtherStateIsUnchanged : (∃ t, exec (.ldImm 0 5) start = .next t ∧ (t.reg 0 == 5) = true) ∧
    writesI (.ldImm 0 5) = false ∧ isSkip (.ldImm 0 5) = false ∧ (∀ nnn, Instr.ldImm 0 5 ≠ .call nnn) ∧
    Instr.ldImm 0 5 ≠ .ret ∧ (∀ x, Instr.ldImm 0 5 ≠ .ldDtVx x) ∧ (∀ x, Instr.ldImm 0 5 ≠ .ldStVx x) ∧ Instr.ldImm 0 5 ≠ .cls ∧
    (∀ x y n, Instr.ldImm 0 5 ≠ .drw x y n) ∧ (∀ x nn, Instr.ldImm 0 5 ≠ .rnd x nn) := by
  refine ⟨of_after (by decide), rfl, rfl, ?_, ?_, ?_, ?_, ?_, ?_, ?_⟩ <;> intros <;> simp

theorem witness_OnlyStoresChangeMemory : ∃ t, step { withWord 0x200 0xF333 with i := 0x400, v := regAt 3 0x9C } = .next t ∧
    (t.mem != (withWord 0x200 0xF333).mem) = true := of_after (by decide)

theorem witness_OnlyClsAndDrwChangeTheDisplay : ∃ t, step { withWord 0x200 0x00E0 with fb := Vector.replicate 32 1 } = .next t ∧
    (t.fb != Vector.replicate 32 1) = true := of_after (by decide)

/-- Each of the two ways: the stack and its depth. -/
theorem witness_OnlyCallAndRetReachTheStack : ∃ t, step (withWord 0x200 0x2300) = .next t ∧
    (t.stack != start.stack && t.sp != start.sp) = true := of_after (by decide)

/-- Each clause: an image, a loop not started and one that is, and a key wait. -/
theorem witness_BootEstablishesTheCanvas :
    (1 < min ([0x60, 0x05] : List Byte).length Config.memSize ∧
      ¬ (Config.base ≤ 0x202 ∧ 0x202 < Config.base + min ([0x60, 0x05] : List Byte).length Config.memSize)) ∧
    (start.run = .running ∧ (start.started = true → start.extents = some (64, 32))) ∧
    ((({ start with started := true, extents := some (64, 32) } : State).run = .running) ∧
      (({ start with started := true, extents := some (64, 32) } : State).started = true →
        ({ start with started := true, extents := some (64, 32) } : State).extents = some (64, 32))) ∧
    ({ start with run := .waitingKey 15 } : State).run = .waitingKey 15 :=
  ⟨⟨by decide, by decide⟩, ⟨rfl, fun h => by cases h⟩, ⟨rfl, fun _ => rfl⟩, rfl⟩

end Sys2Proof.Tests
end

section
/-! SUPPORT. What one instruction may change, said once for all 34 (spec/10_state.md R23, R26, R30, R34, R35): a relation
between the state at the start of phase (d) and a later one, one rule per state operation that says the operation stays
inside it, and one case analysis over the instructions. The frame statements and the invariant are read off it. -/

namespace Sys2Proof.Machine

/-! ## The relation -/

/-- The state `t` differs from `s` at most as the instruction `i` allows, and it has the parts of the invariant that `s`
has: the canonical form of memory, and the PC and the live stack entries in the window. -/
structure InstrEffect (i : Instr) (s t : State) : Prop where
  regs : RegsSameExcept s t (writtenRegs i)
  addr : writesI i = false → t.i = s.i
  stack : (∀ nnn, i ≠ .call nnn) → t.stack = s.stack
  sp : (∀ nnn, i ≠ .call nnn) → i ≠ .ret → t.sp = s.sp
  codeAddresses : InWindow s.pc.toNat ∧ LiveEntriesInWindow s → InWindow t.pc.toNat ∧ LiveEntriesInWindow t
  delayTimer : (∀ x, i ≠ .ldDtVx x) → t.dt = s.dt
  soundTimer : (∀ x, i ≠ .ldStVx x) → t.st = s.st
  skip : isSkip i = false → t.skip = s.skip
  skip_le : t.skip ≤ s.skip + 1
  acc : t.acc = s.acc
  keys : t.keys = s.keys
  run : t.run = s.run ∨ (∃ x, i = .ldVxK x ∧ t.run = .waitingKey x) ∨ ∃ e, t.run = .halted e
  mem : storedBytes i = 0 → t.mem = s.mem
  mem_wf : s.mem.wf = true → t.mem.wf = true
  fb : i ≠ .cls → (∀ x y n, i ≠ .drw x y n) → t.fb = s.fb
  extents : t.extents = s.extents
  started : t.started = s.started
  blocked : t.blocked = s.blocked
  draws : (∀ x nn, i ≠ .rnd x nn) → t.draws = s.draws

namespace InstrEffect

theorem refl (i : Instr) (s : State) : InstrEffect i s s where
  regs _ _ := rfl
  addr _ := rfl
  stack _ := rfl
  sp _ _ := rfl
  codeAddresses h := h
  delayTimer _ := rfl
  soundTimer _ := rfl
  skip _ := rfl
  skip_le := Nat.le_succ _
  acc := rfl
  keys := rfl
  run := .inl rfl
  mem _ := rfl
  mem_wf h := h
  fb _ _ := rfl
  extents := rfl
  started := rfl
  blocked := rfl
  draws _ := rfl

/-! ## One rule per state operation -/

section rules
variable {i : Instr} {s s1 : State}

theorem setReg (h : InstrEffect i s s1) {x : RegIx} (hx : x ∈ writtenRegs i) (b : Byte) :
    InstrEffect i s (s1.setReg x b) :=
  { h with
    regs := fun r hr => by
      have hne : r ≠ x := fun e => hr (e ▸ hx)
      rw [State.reg_setReg_of_ne _ hne, h.regs r hr] }

theorem setI (h : InstrEffect i s s1) (hi : writesI i = true) (w : Word) : InstrEffect i s (s1.setI w) :=
  { h with addr := fun hf => nomatch hi.symm.trans hf }

theorem setDt {x : RegIx} (h : InstrEffect (.ldDtVx x) s s1) (b : Byte) : InstrEffect (.ldDtVx x) s (s1.setDt b) :=
  { h with delayTimer := fun hne => absurd rfl (hne x) }

theorem setSt {x : RegIx} (h : InstrEffect (.ldStVx x) s s1) (b : Byte) : InstrEffect (.ldStVx x) s (s1.setSt b) :=
  { h with soundTimer := fun hne => absurd rfl (hne x) }

theorem waitForKey (x : RegIx) : InstrEffect (.ldVxK x) s (s.setRun (.waitingKey x)) :=
  { refl (.ldVxK x) s with run := .inr (.inl ⟨x, rfl, rfl⟩) }

theorem clearDisplay (h : InstrEffect .cls s s1) : InstrEffect .cls s s1.clearDisplay :=
  { h with fb := fun hne => absurd rfl hne }

theorem setFb {x y : RegIx} {n : Fin 16} (h : InstrEffect (.drw x y n) s s1) (fb : Framebuffer) :
    InstrEffect (.drw x y n) s (s1.setFb fb) :=
  { h with fb := fun _ hne => absurd rfl (hne x y n) }

theorem nextDraw {x : RegIx} {nn : Byte} (h : InstrEffect (.rnd x nn) s s1) : InstrEffect (.rnd x nn) s s1.nextDraw :=
  { h with draws := fun hne => absurd rfl (hne x nn) }

/-- A conditional skip adds at most 1 to the pending-skip counter. -/
theorem requestSkip (hi : isSkip i = true) (b : Bool) : InstrEffect i s (s.requestSkip b) :=
  { refl i s with
    skip := fun hf => nomatch hi.symm.trans hf
    skip_le := Nat.add_le_add_left (Bool.toNat_le b) s.skip }

theorem setMem (h : InstrEffect i s s1) (hi : storedBytes i ≠ 0) {m : Memory} (hm : s.mem.wf = true → m.wf = true) :
    InstrEffect i s (s1.setMem m) :=
  { h with
    mem := fun h0 => absurd h0 hi
    mem_wf := hm }

/-- A run of X + 1 bytes loaded from V[0] on leaves the registers above V[X]. -/
theorem putRegs {x : RegIx} {bs : List Byte} (hl : bs.length = x.val + 1) :
    InstrEffect (.loadRegs x) s (s.setRegs (Machine.putRegs s.v 0 bs)) :=
  { refl (.loadRegs x) s with
    regs := fun r hr => by
      have hlt : ¬ (0 ≤ r.val ∧ r.val < 0 + bs.length) := by
        simp only [writtenRegs, List.mem_filter, List.mem_finRange, true_and, decide_eq_true_eq] at hr
        omega
      exact (get_putRegs r bs s.v 0).trans (dif_neg hlt) }

/-- The address a CALL pushes is its own, so it is an address of the window (R132, R134). -/
theorem push {nnn : Imm12} (h : s.push s.pc = .ok s1) : InstrEffect (.call nnn) s s1 := by
  by_cases hsp : s.sp.val < 16
  · rw [State.push_ok _ _ hsp] at h
    cases h
    exact { refl (.call nnn) s with
      stack := fun hne => absurd rfl (hne nnn)
      sp := fun hne => absurd rfl (hne nnn)
      codeAddresses := fun ⟨hpc, hlive⟩ => ⟨hpc, fun k hk => by
        have hk' : k.val < s.sp.val + 1 := hk
        show InWindow ((s.stack.set s.sp.val s.pc hsp).get k).toNat
        rw [Vector.get_eq_getElem, Vector.getElem_set]
        split
        · exact hpc
        · next hne => exact hlive k (by omega)⟩ }
  · rw [State.push_error _ _ hsp] at h
    cases h

/-- The address RET pops is a live entry, and the entries below it stay live (R31, R132). -/
theorem popPc (h : s.popPc = .ok s1) : InstrEffect .ret s s1 := by
  by_cases hsp : s.sp.val = 0
  · rw [State.popPc_error _ hsp] at h
    cases h
  · rw [State.popPc_ok _ hsp] at h
    cases h
    exact { refl .ret s with
      sp := fun _ hne => absurd rfl hne
      codeAddresses := fun ⟨_, hlive⟩ =>
        ⟨hlive ⟨s.sp.val - 1, by omega⟩ (Nat.sub_lt (Nat.pos_of_ne_zero hsp) Nat.one_pos),
          fun k hk => hlive k (Nat.lt_of_lt_of_le hk (Nat.sub_le _ _))⟩ }

/-! ## Raising, and the checked writes of the PC -/

/-- A fatal error puts the core state back; only the pixels and the draws stay (R252, R254). -/
theorem raise (h : InstrEffect i s s1) (op : Option Word) (r : Raised) : InstrEffect i s (Machine.raise op s s1 r) :=
  { refl i s with
    run := .inr (.inr ⟨_, rfl⟩)
    fb := h.fb
    draws := h.draws }

theorem setPc (h : InstrEffect i s s1) {w : Word} (hw : InWindow w.toNat) : InstrEffect i s (s1.setPc w) :=
  { h with codeAddresses := fun hs => ⟨hw, (h.codeAddresses hs).2⟩ }

theorem writePc (h : InstrEffect i s s1) (op : Option Word) (a : Nat) : InstrEffect i s (Machine.writePc op s s1 a) := by
  rcases writePc_cases op s s1 a with ⟨ha, e⟩ | ⟨_, e⟩ <;> rw [e]
  · exact h.setPc (by rwa [toNat_ofNat_of_inWindow ha])
  · exact h.raise op _

theorem advance (h : InstrEffect i s s1) (op : Option Word) : InstrEffect i s (Machine.advance op s s1) :=
  h.writePc op _

theorem tryAdvance {r : Except Raised State} (h : ∀ s1, r = .ok s1 → InstrEffect i s s1) (op : Option Word) :
    InstrEffect i s (Machine.tryAdvance op s r) := by
  rcases tryAdvance_cases op s r with ⟨e, _, ht⟩ | ⟨s1, hr, ht⟩ <;> rw [ht]
  · exact (refl i s).raise op e
  · exact (h s1 hr).advance op

/-! ## The handlers that may raise -/

theorem skipIfDown {x : RegIx} (hi : isSkip i = true) (h : s.skipIfDown x = .ok s1) : InstrEffect i s s1 := by
  unfold State.skipIfDown at h
  split at h <;> cases h
  exact requestSkip hi _

theorem drawWith {g : Nat} {font : Font} {x y : RegIx} {n : Fin 16} (h : State.drawWith g font s x y n = .ok s1) :
    InstrEffect (.drw x y n) s s1 := by
  unfold State.drawWith at h
  split at h <;> cases h
  exact ((refl _ s).setFb _).setReg (by simp [writtenRegs, vf]) _

theorem pointAtGlyph {g : Nat} {x : RegIx} (h : State.pointAtGlyph g s x = .ok s1) : InstrEffect (.ldF x) s s1 := by
  unfold State.pointAtGlyph at h
  split at h <;> cases h
  exact (refl _ s).setI rfl _

theorem storeAtI {bs : List Byte} (hi : storedBytes i ≠ 0) (h : s.storeAtI bs = .ok s1) : InstrEffect i s s1 := by
  unfold State.storeAtI at h
  split at h <;> cases h
  next hw => exact (refl _ s).setMem hi fun hm => (writeBytes_spec le_rfl hm hw).1

theorem storeRegsAtI {x : RegIx} (h : s.storeRegsAtI x = .ok s1) : InstrEffect (.storeRegs x) s s1 := by
  unfold State.storeRegsAtI at h
  split at h <;> cases h
  next hs => exact (storeAtI (i := .storeRegs x) (Nat.succ_ne_zero x.val) hs).setI rfl _

theorem loadRegsAtI {x : RegIx} (h : s.loadRegsAtI x = .ok s1) : InstrEffect (.loadRegs x) s s1 := by
  unfold State.loadRegsAtI at h
  split at h <;> cases h
  next hr => exact (putRegs (readBytes_length hr)).setI rfl _

theorem callState (nnn : Imm12) : InstrEffect (.call nnn) s (Machine.callState nnn s) := by
  unfold Machine.callState
  split
  · exact (refl _ s).raise _ _
  · next hp => exact (push hp).writePc _ _

/-- The operations that write a result and VF (R173). -/
theorem setResultAndFlag {x : RegIx} (hi : writtenRegs i = [x, 15]) (a b : Byte) :
    InstrEffect i s ((s.setReg x a).setReg vf b) :=
  ((refl i s).setReg (by simp [hi]) a).setReg (by simp [hi, vf]) b

/-- The shifts, which write VF first (R184). -/
theorem setFlagAndResult {x : RegIx} (hi : writtenRegs i = [x, 15]) (a b : Byte) :
    InstrEffect i s ((s.setReg vf b).setReg x a) :=
  ((refl i s).setReg (by simp [hi, vf]) b).setReg (by simp [hi]) a

/-- The instructions that write one register and no flag. -/
theorem setOneReg {x : RegIx} (hi : writtenRegs i = [x]) (b : Byte) : InstrEffect i s (s.setReg x b) :=
  (refl i s).setReg (by simp [hi]) b

end rules

/-! ## Every instruction -/

/-- Every instruction answers a next state, and that state differs from the one before as the instruction allows. -/
theorem exists_next (i : Instr) (s : State) : ∃ t, exec i s = .next t ∧ InstrEffect i s t :=
  match i with
  | .cls => ⟨_, rfl, (refl _ s).clearDisplay.advance _⟩
  | .ret => ⟨_, rfl, tryAdvance (fun _ => popPc) _⟩
  | .jp _ => ⟨_, rfl, (refl _ s).writePc _ _⟩
  | .call nnn => ⟨_, rfl, callState nnn⟩
  | .seImm _ _ => ⟨_, rfl, (requestSkip rfl _).advance _⟩
  | .sneImm _ _ => ⟨_, rfl, (requestSkip rfl _).advance _⟩
  | .seReg _ _ => ⟨_, rfl, (requestSkip rfl _).advance _⟩
  | .ldImm _ _ => ⟨_, rfl, (setOneReg rfl _).advance _⟩
  | .addImm _ _ => ⟨_, rfl, (setOneReg rfl _).advance _⟩
  | .ldReg _ _ => ⟨_, rfl, (setOneReg rfl _).advance _⟩
  | .orReg _ _ => ⟨_, rfl, (setOneReg rfl _).advance _⟩
  | .andReg _ _ => ⟨_, rfl, (setOneReg rfl _).advance _⟩
  | .xorReg _ _ => ⟨_, rfl, (setOneReg rfl _).advance _⟩
  | .addReg _ _ => ⟨_, rfl, (setResultAndFlag rfl _ _).advance _⟩
  | .subReg _ _ => ⟨_, rfl, (setResultAndFlag rfl _ _).advance _⟩
  | .shr _ _ => ⟨_, rfl, (setFlagAndResult rfl _ _).advance _⟩
  | .subnReg _ _ => ⟨_, rfl, (setResultAndFlag rfl _ _).advance _⟩
  | .shl _ _ => ⟨_, rfl, (setFlagAndResult rfl _ _).advance _⟩
  | .sneReg _ _ => ⟨_, rfl, (requestSkip rfl _).advance _⟩
  | .ldI _ => ⟨_, rfl, ((refl _ s).setI rfl _).advance _⟩
  | .jpV0 _ => ⟨_, rfl, (refl _ s).writePc _ _⟩
  | .rnd x _ => ⟨_, rfl, ((refl _ s).nextDraw.setReg (List.mem_singleton_self x) _).advance _⟩
  | .drw _ _ _ => ⟨_, rfl, tryAdvance (fun _ => drawWith) _⟩
  | .skp x => ⟨_, rfl, tryAdvance (fun _ => skipIfDown (i := .skp x) rfl) _⟩
  | .sknp x => ⟨_, rfl, tryAdvance (fun _ => skipIfDown (i := .sknp x) rfl) _⟩
  | .ldVxDt _ => ⟨_, rfl, (setOneReg rfl _).advance _⟩
  | .ldVxK x => ⟨_, rfl, waitForKey x⟩
  | .ldDtVx _ => ⟨_, rfl, ((refl _ s).setDt _).advance _⟩
  | .ldStVx _ => ⟨_, rfl, ((refl _ s).setSt _).advance _⟩
  | .addI _ => ⟨_, rfl, ((refl _ s).setI rfl _).advance _⟩
  | .ldF _ => ⟨_, rfl, tryAdvance (fun _ => pointAtGlyph) _⟩
  | .ldB x => ⟨_, rfl, tryAdvance (fun _ => storeAtI (i := .ldB x) (Nat.succ_ne_zero 2)) _⟩
  | .storeRegs _ => ⟨_, rfl, tryAdvance (fun _ => storeRegsAtI) _⟩
  | .loadRegs _ => ⟨_, rfl, tryAdvance (fun _ => loadRegsAtI) _⟩

theorem of_exec {i : Instr} {s t : State} (h : exec i s = .next t) : InstrEffect i s t := by
  obtain ⟨t', ht', he⟩ := exists_next i s
  obtain rfl : t' = t := Host.Outcome.next.inj (ht'.symm.trans h)
  exact he

end InstrEffect

/-! ## The frame statements -/

/-- Settles O54: the register clause of `InstrEffect`. -/
theorem otherRegistersAreUnchanged : Obligations.OtherRegistersAreUnchanged := by
  unfold Obligations.OtherRegistersAreUnchanged
  intro i s t h
  exact (InstrEffect.of_exec h).regs

/-- Settles O56: the other clauses of `InstrEffect`, but for memory. -/
theorem otherStateIsUnchanged : Obligations.OtherStateIsUnchanged := by
  unfold Obligations.OtherStateIsUnchanged
  intro i s t h
  have e := InstrEffect.of_exec h
  exact ⟨e.addr, e.stack, e.sp, e.delayTimer, e.soundTimer, e.skip, e.fb, e.draws, e.acc, e.keys, e.extents, e.blocked,
    e.started, e.run⟩

end Sys2Proof.Machine
end

section
/-! SUPPORT. What a whole step can do (spec/40_interpreter_loop.md R100): the invariant through each phase, and the steps that
execute no instruction. -/

namespace Sys2Proof.Machine

/-! ## The invariant -/

namespace MachineInv
variable {s s0 s1 t : State}

/-- An instruction keeps the invariant: it starts with no pending skip, so it leaves at most one, and none where it is
FX0A. -/
theorem of_effect {i : Instr} (h : MachineInv s) (hrun : s.run = .running) (hskip : s.skip = 0) (e : InstrEffect i s t) :
    MachineInv t where
  memory := e.mem_wf h.memory
  pc := (e.codeAddresses ⟨h.pc, h.stack⟩).1
  skip := by simpa only [hskip] using e.skip_le
  waiting x hx := by
    rcases e.run with hr | ⟨y, rfl, _⟩ | ⟨err, hr⟩
    · rw [hr, hrun] at hx; cases hx
    · exact (e.skip rfl).trans hskip
    · rw [hr] at hx; cases hx
  accNonneg := e.acc ▸ h.accNonneg
  accBelowTick := e.acc ▸ h.accBelowTick
  blocked := e.blocked ▸ h.blocked
  stack := (e.codeAddresses ⟨h.pc, h.stack⟩).2

/-- Phases (a) to (c): the timer phase leaves less than one tick (R36, R270) and accounts for the wait. -/
theorem beforePhaseD (h : MachineInv s) : MachineInv s.beforePhaseD := by
  have hacc := timersAdvance_acc s (add_nonneg h.accNonneg (s.elapsed_nonneg h.blocked))
  exact {
    memory := by simpa using h.memory
    pc := by simpa using h.pc
    skip := by simpa using h.skip
    waiting := by simpa using h.waiting
    accNonneg := by simpa only [State.acc_beforePhaseD] using hacc.1
    accBelowTick := by simpa only [State.acc_beforePhaseD] using hacc.2
    blocked := by simp
    stack := by simpa [LiveEntriesInWindow] using h.stack }

theorem raise (h : MachineInv s0) (op : Option Word) (s1 : State) (r : Raised) :
    MachineInv (Machine.raise op s0 s1 r) :=
  { h with waiting := fun _ hx => by cases hx }

theorem advance (h0 : MachineInv s0) (h1 : MachineInv s1) (op : Option Word) :
    MachineInv (Machine.advance op s0 s1) := by
  rcases advance_cases op s0 s1 with ⟨ha, e⟩ | ⟨_, e⟩ <;> rw [e]
  · exact { h1 with pc := by rwa [State.pc_setPc, toNat_pc_add_two ha] }
  · exact h0.raise op s1 _

theorem decSkip (h : MachineInv s) : MachineInv s.decSkip :=
  { h with
    skip := (Nat.sub_le _ _).trans h.skip
    waiting := fun x hx => by rw [State.skip_decSkip, h.waiting x hx] }

/-- Phase (d) from a running block keeps the invariant (R35, R110). -/
theorem phaseD (h : MachineInv s) (hrun : s.run = .running) (ht : phaseD s = .next t) : MachineInv t := by
  rcases phaseD_cases s with ⟨_, e⟩ | ⟨_, r, _, e⟩ | ⟨_, w, _, _, _, e⟩ | ⟨hskip, w, i, _, _, e⟩ <;> rw [e] at ht
  · cases ht; exact h.advance h.decSkip none
  · cases ht; exact h.raise none s r
  · cases ht; exact h.raise (some w) s _
  · exact h.of_effect hrun hskip (.of_exec ht)

theorem passWait (h : MachineInv s) : MachineInv s.passWait.nextDraw :=
  { h with blocked := add_nonneg h.blocked (NNRat.coe_nonneg _) }

theorem resumeKey (h : MachineInv s) (x : RegIx) (k : Fin 16) : MachineInv (Machine.resumeKey x k s) :=
  h.advance (s1 := (s.setReg x (BitVec.ofNat 8 k.val)).setRun .running)
    { h with waiting := fun _ hx => RunState.noConfusion hx } _

theorem waitStep (h : MachineInv s) (x : RegIx) : MachineInv (Machine.waitStep x s) := by
  rcases waitStep_cases x s with ⟨_, e⟩ | ⟨k, _, e⟩ <;> rw [e]
  · exact h.passWait
  · exact h.passWait.resumeKey x k

end MachineInv

/-! ## The step -/

/-- Everything a step that answers a next state can be: an iteration of the loop, or a moment of a key wait. -/
theorem step_next_cases {s t : State} (h : step s = .next t) :
    (s.run = .running ∧ phaseD s.beforePhaseD = .next t) ∨ (∃ x, s.run = .waitingKey x ∧ t = waitStep x s) := by
  cases hrun : s.run with
  | running => exact .inl ⟨rfl, (step_running hrun).symm.trans h⟩
  | waitingKey x => exact .inr ⟨x, rfl, Host.Outcome.next.inj (h.symm.trans (step_waiting hrun))⟩
  | halted e =>
    unfold step at h
    rw [hrun] at h
    cases h

/-- Settles O3: phases (a) to (c) and then phase (d) keep the invariant, and so does a moment of a key wait. -/
theorem everyStepKeepsTheInvariant : Obligations.EveryStepKeepsTheInvariant := by
  unfold Obligations.EveryStepKeepsTheInvariant
  intro s t h ht
  rcases step_next_cases ht with ⟨hrun, hd⟩ | ⟨x, _, rfl⟩
  · exact h.beforePhaseD.phaseD (s.run_beforePhaseD.trans hrun) hd
  · exact h.waitStep x

/-! ## The steps that execute no instruction -/

/-- What no step changes that executes no instruction. -/
structure StorageKept (s t : State) : Prop where
  stack : t.stack = s.stack
  sp : t.sp = s.sp
  mem : t.mem = s.mem
  fb : t.fb = s.fb

namespace StorageKept
variable {s s0 s1 : State}

theorem beforePhaseD (s : State) : StorageKept s s.beforePhaseD :=
  ⟨s.stack_beforePhaseD, s.sp_beforePhaseD, s.mem_beforePhaseD, s.fb_beforePhaseD⟩

theorem raise (h0 : StorageKept s s0) (h1 : StorageKept s s1) (op : Option Word) (r : Raised) :
    StorageKept s (Machine.raise op s0 s1 r) :=
  { h0 with fb := h1.fb }

theorem advance (h0 : StorageKept s s0) (h1 : StorageKept s s1) (op : Option Word) :
    StorageKept s (Machine.advance op s0 s1) := by
  rcases advance_cases op s0 s1 with ⟨_, e⟩ | ⟨_, e⟩ <;> rw [e]
  · exact { h1 with }
  · exact h0.raise h1 op _

theorem consumeSkip (h : StorageKept s s0) : StorageKept s (Machine.consumeSkip s0) :=
  h.advance (s1 := s0.decSkip) { h with } none

theorem resumeKey (h : StorageKept s s0) (x : RegIx) (k : Fin 16) : StorageKept s (Machine.resumeKey x k s0) :=
  h.advance (s1 := (s0.setReg x (BitVec.ofNat 8 k.val)).setRun .running) { h with } _

theorem waitStep (x : RegIx) (s : State) : StorageKept s (Machine.waitStep x s) := by
  have hwait : StorageKept s s.passWait.nextDraw := ⟨rfl, rfl, rfl, rfl⟩
  rcases waitStep_cases x s with ⟨_, e⟩ | ⟨k, _, e⟩ <;> rw [e]
  · exact hwait
  · exact hwait.resumeKey x k

end StorageKept

/-- Everything a step can do to the stack, to memory and to the pixels: nothing, or what the instruction executed does. -/
theorem step_storage_cases {s t : State} (h : step s = .next t) :
    StorageKept s t ∨
    (s.run = .running ∧ s.skip = 0 ∧ ∃ w i, fetch s = .ok w ∧ decodeWord w = .ok i ∧ InstrEffect i s.beforePhaseD t) := by
  rcases step_next_cases h with ⟨hrun, hph⟩ | ⟨x, _, rfl⟩
  · have hb := StorageKept.beforePhaseD s
    rcases phaseD_cases s.beforePhaseD with ⟨_, e⟩ | ⟨_, r, _, e⟩ | ⟨_, w, _, _, _, e⟩ | ⟨hskip, w, i, hf, hd, e⟩ <;>
      rw [e] at hph
    · cases hph; exact .inl hb.consumeSkip
    · cases hph; exact .inl (hb.raise hb none r)
    · cases hph; exact .inl (hb.raise hb (some w) _)
    · rw [State.skip_beforePhaseD] at hskip
      rw [fetch_beforePhaseD] at hf
      exact .inr ⟨hrun, hskip, w, i, hf, hd, .of_exec hph⟩
  · exact .inl (.waitStep x s)

end Sys2Proof.Machine
end

section
/-! SUPPORT. The word that decodes to an instruction is the word of that instruction (spec/30_encoding.md R84, R85, R90). -/

namespace Sys2Proof
variable {w : Word} {i : Instr}

theorem word4_eq_of_fields {a d : Nibble} (ha : n0 w = a) (hd : n3 w = d) : word4 a (n1 w) (n2 w) d = w := by
  subst ha hd; exact word4_fields w

theorem wordX8_eq_of_fields {a : Nibble} {nn : Byte} (ha : n0 w = a) (hn : nnOf w = nn) : wordX8 a (n1 w) nn = w := by
  subst ha hn; exact wordX8_fields w

theorem word12_eq_of_fields {a : Nibble} (ha : n0 w = a) : word12 a (nnnOf w) = w := by
  subst ha; exact word12_fields w

theorem encode_of_decodeFamily0 (h : decodeFamily0 w = .ok i) : encode i = w := by
  unfold decodeFamily0 at h
  split_ifs at h with hw hw <;> cases h <;> exact hw.symm

/-- Each of the nine selectors is the low nibble of the word of its instruction (R172). -/
theorem encode_of_decodeFamily8 (h0 : n0 w = 0x8) (h : decodeFamily8 w = .ok i) : encode i = w := by
  unfold decodeFamily8 at h
  iterate 9
    obtain ⟨h3, h⟩ | ⟨-, h⟩ := ite_eq_iff.1 h
    · cases h; exact word4_eq_of_fields h0 h3
  cases h

theorem encode_of_decodeFamilyE (h0 : n0 w = 0xE) (h : decodeFamilyE w = .ok i) : encode i = w := by
  unfold decodeFamilyE at h
  split_ifs at h with hn hn <;> cases h <;> exact wordX8_eq_of_fields h0 hn

/-- Each of the nine selectors is the low byte of the word of its instruction (R220). -/
theorem encode_of_decodeFamilyF (h0 : n0 w = 0xF) (h : decodeFamilyF w = .ok i) : encode i = w := by
  unfold decodeFamilyF at h
  iterate 9
    obtain ⟨hn, h⟩ | ⟨-, h⟩ := ite_eq_iff.1 h
    · cases h; exact wordX8_eq_of_fields h0 hn
  cases h

/-- The families 1 to 7, 9 and A to D have their selector in the decoder itself; the others have their own (R84). -/
theorem encode_of_decodeWord (h : decodeWord w = .ok i) : encode i = w := by
  unfold decodeWord at h
  obtain ⟨h0, h⟩ | ⟨h0', h⟩ := ite_eq_iff.1 h
  · exact encode_of_decodeFamily0 h
  obtain ⟨h0, h⟩ | ⟨h1', h⟩ := ite_eq_iff.1 h
  · cases h; exact word12_eq_of_fields h0
  obtain ⟨h0, h⟩ | ⟨h2', h⟩ := ite_eq_iff.1 h
  · cases h; exact word12_eq_of_fields h0
  obtain ⟨h0, h⟩ | ⟨h3', h⟩ := ite_eq_iff.1 h
  · cases h; exact wordX8_eq_of_fields h0 rfl
  obtain ⟨h0, h⟩ | ⟨h4', h⟩ := ite_eq_iff.1 h
  · cases h; exact wordX8_eq_of_fields h0 rfl
  obtain ⟨h0, h⟩ | ⟨h5', h⟩ := ite_eq_iff.1 h
  · split_ifs at h with h3
    cases h; exact word4_eq_of_fields h0 h3
  obtain ⟨h0, h⟩ | ⟨h6', h⟩ := ite_eq_iff.1 h
  · cases h; exact wordX8_eq_of_fields h0 rfl
  obtain ⟨h0, h⟩ | ⟨h7', h⟩ := ite_eq_iff.1 h
  · cases h; exact wordX8_eq_of_fields h0 rfl
  obtain ⟨h0, h⟩ | ⟨h8', h⟩ := ite_eq_iff.1 h
  · exact encode_of_decodeFamily8 h0 h
  obtain ⟨h0, h⟩ | ⟨h9', h⟩ := ite_eq_iff.1 h
  · split_ifs at h with h3
    cases h; exact word4_eq_of_fields h0 h3
  obtain ⟨h0, h⟩ | ⟨hA', h⟩ := ite_eq_iff.1 h
  · cases h; exact word12_eq_of_fields h0
  obtain ⟨h0, h⟩ | ⟨hB', h⟩ := ite_eq_iff.1 h
  · cases h; exact word12_eq_of_fields h0
  obtain ⟨h0, h⟩ | ⟨hC', h⟩ := ite_eq_iff.1 h
  · cases h; exact wordX8_eq_of_fields h0 rfl
  obtain ⟨h0, h⟩ | ⟨hD', h⟩ := ite_eq_iff.1 h
  · cases h; exact word4_eq_of_fields h0 rfl
  obtain ⟨h0, h⟩ | ⟨hE', h⟩ := ite_eq_iff.1 h
  · exact encode_of_decodeFamilyE h0 h
  · exact encode_of_decodeFamilyF (by bv_omega) h

end Sys2Proof

namespace Sys2Proof.Machine

/-- Settles O59: a step that changes the stack or its depth executes an instruction, and the stack clauses of
`InstrEffect` leave only CALL and RET. -/
theorem onlyCallAndRetReachTheStack : Obligations.OnlyCallAndRetReachTheStack := by
  unfold Obligations.OnlyCallAndRetReachTheStack
  intro s t h hne
  rcases step_storage_cases h with hk | ⟨hrun, hskip, w, i, hf, hd, e⟩
  · exact (hne.elim (· hk.stack) (· hk.sp)).elim
  · rw [← encode_of_decodeWord hd] at hf
    refine ⟨hrun, hskip, ?_⟩
    by_contra hno
    obtain ⟨hret, hcall⟩ := not_or.1 hno
    have hcall' : ∀ nnn, i ≠ .call nnn := fun nnn hi => hcall ⟨nnn, hi ▸ hf⟩
    have hret' : i ≠ .ret := fun hi => hret (hi ▸ hf)
    have hstack : t.stack = s.stack := (e.stack hcall').trans s.stack_beforePhaseD
    have hsp : t.sp = s.sp := (e.sp hcall' hret').trans s.sp_beforePhaseD
    exact hne.elim (· hstack) (· hsp)

end Sys2Proof.Machine
end

section
/-! SUPPORT. What stores and loads do to memory, and the rows a draw takes from the glyph table (spec/20_memory.md R56, R59,
R62, spec/44_draw.md R201). -/

namespace Sys2Proof.Machine

/-! ## The stores -/

/-- The instructions that store to memory are FX33 and FX55 (R59). -/
theorem storedBytes_ne_zero_iff {i : Instr} :
    storedBytes i ≠ 0 ↔ (∃ x, i = .ldB x) ∨ ∃ x, i = .storeRegs x := by
  refine ⟨fun h => ?_, ?_⟩
  · cases i with
    | ldB x => exact .inl ⟨x, rfl⟩
    | storeRegs x => exact .inr ⟨x, rfl⟩
    | _ => exact absurd rfl h
  · rintro (⟨x, rfl⟩ | ⟨x, rfl⟩) <;> exact Nat.succ_ne_zero _

section stores
variable {s s1 : State} {a : Nat}

/-- Bytes stored from the address I on leave every byte outside their run. -/
theorem State.read_storeAtI_of_outside {bs : List Byte} (hm : s.mem.wf = true) (h : s.storeAtI bs = .ok s1)
    (ha : ¬ (s.iAddr ≤ a ∧ a < s.iAddr + bs.length)) : s1.mem.read a = s.mem.read a := by
  unfold State.storeAtI at h
  split at h <;> cases h
  next hw => exact ((writeBytes_spec le_rfl hm hw).2 a).trans (dif_neg ha)

theorem State.read_storeRegsAtI_of_outside {x : RegIx} (hm : s.mem.wf = true) (h : s.storeRegsAtI x = .ok s1)
    (ha : ¬ (s.iAddr ≤ a ∧ a < s.iAddr + (x.val + 1))) : s1.mem.read a = s.mem.read a := by
  unfold State.storeRegsAtI at h
  split at h <;> cases h
  next s2 hs =>
    have hstored : s2.mem.read a = s.mem.read a := State.read_storeAtI_of_outside hm hs (by rwa [s.regsUpTo_length])
    exact hstored

/-- The end of phase (d) leaves memory as the handler left it, and a fault puts it back (R252). -/
theorem mem_advance (op : Option Word) (s s1 : State) :
    (advance op s s1).mem = s1.mem ∨ (advance op s s1).mem = s.mem := by
  rcases advance_cases op s s1 with ⟨_, e⟩ | ⟨_, e⟩ <;> rw [e]
  · exact .inl rfl
  · exact .inr rfl

theorem read_tryAdvance {r : Except Raised State} (op : Option Word)
    (h : ∀ s1, r = .ok s1 → s1.mem.read a = s.mem.read a) : (tryAdvance op s r).mem.read a = s.mem.read a := by
  rcases tryAdvance_cases op s r with ⟨_, _, e⟩ | ⟨s1, hr, e⟩ <;> rw [e]
  · rfl
  · rcases mem_advance op s s1 with hm | hm
    · rw [hm, h s1 hr]
    · rw [hm]

end stores

/-! ## The loader -/

/-- The image cut off at the memory size fits into the window from BASE on, so that its bytes stand there and no other byte
changes (R62). -/
theorem copyImage_take_spec {m : Memory} (hm : m.wf = true) (img : List Byte) :
    (copyImage m Config.base (img.take Config.memSize)).wf = true ∧
    (∀ k, (h : k < min img.length Config.memSize) →
      (copyImage m Config.base (img.take Config.memSize)).read (Config.base + k) = img[k]'(by omega)) ∧
    (∀ a, ¬ (Config.base ≤ a ∧ a < Config.base + min img.length Config.memSize) →
      (copyImage m Config.base (img.take Config.memSize)).read a = m.read a) := by
  have hlen : (img.take Config.memSize).length = min img.length Config.memSize := by
    rw [List.length_take, Nat.min_comm]
  obtain ⟨hwf, hread⟩ := copyImage_spec (img.take Config.memSize) m Config.base le_rfl (by omega) hm
  refine ⟨hwf, fun k hk => ?_, fun a ha => ?_⟩
  · rw [hread, dif_pos (by omega)]
    simp only [Nat.add_sub_cancel_left, List.getElem_take]
  · rw [hread, dif_neg (by rwa [hlen])]

theorem State.load_of_not_started {s : State} (h : s.started = false) (img : List Byte) :
    s.load img = .next (s.setMem (copyImage s.mem Config.base (img.take Config.memSize))) :=
  if_neg (ne_true_of_eq_false h)

/-! ## The rows of a glyph -/

/-- Rows 0 to `n - 1` of a glyph, `n` up to 5 (R201). -/
theorem glyphRows_eq_take (font : Font) (g : Fin 16) {n : Nat} (h : n ≤ 5) :
    glyphRows font g.val 0 n = .ok ((font.get g).toList.take n) := by
  rw [glyphRows_ok font g.isLt n 0 (by omega)]
  congr 1
  refine List.ext_getElem (by simpa using h) fun k _ hk => ?_
  have hk5 : k < 5 := by simp only [List.length_take, Vector.length_toList] at hk; omega
  simp [Vector.get_eq_getElem, hk5]

/-! ## The statements -/

/-- Settles O4: `copyImage` writes exactly the bytes of the image cut off at the memory size, and of the invariant only the
canonical form speaks of memory. -/
theorem loadCopiesTheImage : Obligations.LoadCopiesTheImage := by
  unfold Obligations.LoadCopiesTheImage
  intro s img hstart hm
  obtain ⟨hwf, hread⟩ := copyImage_take_spec hm img
  exact ⟨_, State.load_of_not_started hstart img, hwf, fun h => { h with memory := hwf }, hread⟩

/-- Settles O40: an address of glyph space takes its rows from the glyph table, whose rows end at 5. -/
theorem drawFromTheGlyphTable : Obligations.DrawFromTheGlyphTable := by
  unfold Obligations.DrawFromTheGlyphTable
  intro x y n s g hn hi
  have hrows : spriteRows Config.glyphBase Config.font s.mem s.i.toNat n.val = glyphRows Config.font g.val 0 n.val := by
    rw [spriteRows_glyph _ _ _ _ _ (Fin.val_ne_zero_iff.2 hn) (by omega), hi, Nat.add_sub_cancel_left]
  refine ⟨fun h5 => ?_, fun h5 => ?_⟩
  · exact drw_draws (hrows.trans (glyphRows_eq_take _ g h5)) (by rw [List.length_take]; omega)
  · refine halts_of_tryAdvance rfl ?_
    unfold State.drawWith State.iAddr
    rw [hrows, glyphRows_error _ g.isLt n.val 0 (by omega) (by omega)]

/-- Settles O55: FX33 and FX55 write exactly the run of their bytes, and the others leave memory as a whole. -/
theorem otherBytesAreUnchanged : Obligations.OtherBytesAreUnchanged := by
  unfold Obligations.OtherBytesAreUnchanged
  intro i s t hm h a ha
  by_cases h0 : storedBytes i = 0
  · rw [(InstrEffect.of_exec h).mem h0]
  · rcases storedBytes_ne_zero_iff.1 h0 with ⟨x, rfl⟩ | ⟨x, rfl⟩ <;> cases h
    · exact read_tryAdvance _ fun _ hs => State.read_storeAtI_of_outside hm hs ha
    · exact read_tryAdvance _ fun _ hs => State.read_storeRegsAtI_of_outside hm hs ha

/-- Settles O57: a step that changes memory executes an instruction, and the memory clause of `InstrEffect` leaves only the
stores. -/
theorem onlyStoresChangeMemory : Obligations.OnlyStoresChangeMemory := by
  unfold Obligations.OnlyStoresChangeMemory
  intro s t h hne
  rcases step_storage_cases h with hk | ⟨hrun, hskip, w, i, hf, hd, e⟩
  · exact absurd hk.mem hne
  · have hstore : storedBytes i ≠ 0 := fun h0 => hne ((e.mem h0).trans s.mem_beforePhaseD)
    rw [← encode_of_decodeWord hd] at hf
    refine ⟨hrun, hskip, ?_⟩
    rcases storedBytes_ne_zero_iff.1 hstore with ⟨x, rfl⟩ | ⟨x, rfl⟩
    · exact ⟨x, .inl hf⟩
    · exact ⟨x, .inr hf⟩

end Sys2Proof.Machine
end

section
/-! SUPPORT. Decoding and encoding are inverse to each other (spec/30_encoding.md R81, R84, R85, R90). -/

namespace Sys2Proof
variable {w : Word}

/-! ## The families whose decoder is a definition of its own -/

theorem decodeWord_of_family0 (h : n0 w = 0x0) : decodeWord w = decodeFamily0 w := by simp [decodeWord, h]

theorem decodeWord_of_family8 (h : n0 w = 0x8) : decodeWord w = decodeFamily8 w := by simp [decodeWord, h]

theorem decodeWord_of_familyE (h : n0 w = 0xE) : decodeWord w = decodeFamilyE w := by simp [decodeWord, h]

theorem decodeWord_of_familyF (h : n0 w = 0xF) : decodeWord w = decodeFamilyF w := by simp [decodeWord, h]

/-! ## The statements -/

/-- By the shape of the instruction's word: the decoder's tests on a word put together from fields come down to the fields. -/
theorem decodeWord_encode (i : Instr) : decodeWord (encode i) = .ok i := by
  cases i with
  | cls | ret => decide
  | jp _ | call _ | ldI _ | jpV0 _ => simp [encode, decodeWord, n0_word12, nnnOf_word12]
  | seImm _ _ | sneImm _ _ | ldImm _ _ | addImm _ _ | rnd _ _ =>
    simp [encode, decodeWord, n0_wordX8, xOf_wordX8, nnOf_wordX8]
  | seReg _ _ | sneReg _ _ => simp [encode, decodeWord, n0_word4, xOf_word4, yOf_word4, n3_word4]
  | drw _ _ _ => simp [encode, decodeWord, n0_word4, xOf_word4, yOf_word4, n3_word4, toFin_nibbleOf]
  | ldReg _ _ | orReg _ _ | andReg _ _ | xorReg _ _ | addReg _ _ | subReg _ _ | shr _ _ | subnReg _ _ | shl _ _ =>
    rw [encode, decodeWord_of_family8 (n0_word4 ..)]
    simp [decodeFamily8, n3_word4, xOf_word4, yOf_word4]
  | skp _ | sknp _ =>
    rw [encode, decodeWord_of_familyE (n0_wordX8 ..)]
    simp [decodeFamilyE, nnOf_wordX8, xOf_wordX8]
  | ldVxDt _ | ldVxK _ | ldDtVx _ | ldStVx _ | addI _ | ldF _ | ldB _ | storeRegs _ | loadRegs _ =>
    rw [encode, decodeWord_of_familyF (n0_wordX8 ..)]
    simp [decodeFamilyF, nnOf_wordX8, xOf_wordX8]

/-- Settles O6: `decodeWord_encode`, a case analysis over the instructions by the shape of their words. -/
theorem decodeOfEncodeIsTheInstruction : Obligations.DecodeOfEncodeIsTheInstruction := by
  unfold Obligations.DecodeOfEncodeIsTheInstruction
  exact decodeWord_encode

/-- Settles O7: `encode_of_decodeWord`, along the tests of the decoder. -/
theorem encodeOfDecodeIsTheWord : Obligations.EncodeOfDecodeIsTheWord := by
  unfold Obligations.EncodeOfDecodeIsTheWord
  exact fun _ _ => encode_of_decodeWord

/-- Settles O11: each word is decoded. -/
theorem sampleWordsDecode : Obligations.SampleWordsDecode := by
  unfold Obligations.SampleWordsDecode
  decide

end Sys2Proof
end

section
/-! SUPPORT. The opcode map read family by family (spec/30_encoding.md R83 to R86): a word can match the rows of its own family
only, and these all have one mask, so that one selector of the word tells whether it is legal. -/

namespace Sys2Proof
variable {w : Word}

/-! ## Two rows -/

/-- Two rows that one word matches agree on the bits that both fix. -/
theorem OpRow.agree_of_hit {r r' : OpRow} (h : r.hit w = true) (h' : r'.hit w = true) :
    r.value &&& r'.mask = r'.value &&& r.mask := by
  rw [← eq_of_beq h, ← eq_of_beq h', BitVec.and_assoc, BitVec.and_assoc, BitVec.and_comm r.mask]

theorem opcodeRows_eq_of_agree :
    ∀ r ∈ opcodeRows, ∀ r' ∈ opcodeRows, r.value &&& r'.mask = r'.value &&& r.mask → r = r' := by
  decide

/-- Settles O9: any two different rows of the map differ in a bit that both fix. -/
theorem aWordMatchesAtMostOneRow : Obligations.AWordMatchesAtMostOneRow := by
  unfold Obligations.AWordMatchesAtMostOneRow
  intro w r hr r' hr' h h'
  exact opcodeRows_eq_of_agree r hr r' hr' (OpRow.agree_of_hit h h')

/-! ## The rows of a family -/

/-- The rows of a family: those that fix the family nibble to it (R83). -/
def familyRows (f : Nibble) : List OpRow := opcodeRows.filter (n0 ·.value == f)

/-- Every row fixes the family nibble (R83). -/
theorem n0_value_of_hit {r : OpRow} (hr : r ∈ opcodeRows) (h : r.hit w = true) : n0 r.value = n0 w := by
  have hmask : ∀ r ∈ opcodeRows, n0 r.mask = BitVec.allOnes 4 := by decide
  calc n0 r.value = n0 (w &&& r.mask) := by rw [eq_of_beq h]
    _ = n0 w &&& n0 r.mask := BitVec.extractLsb'_and
    _ = n0 w := by rw [hmask r hr, BitVec.and_allOnes]

/-- When the rows of its family all have one mask, a word is legal exactly when its masked bits are the value of one. -/
theorem wellFormedWord_iff_mem_values {f : Nibble} {m : Word} (h0 : n0 w = f) (hm : ∀ r ∈ familyRows f, r.mask = m) :
    wellFormedWord w = true ↔ w &&& m ∈ (familyRows f).map (·.value) := by
  unfold wellFormedWord
  rw [List.any_eq_true, List.mem_map]
  constructor
  · rintro ⟨r, hr, h⟩
    have hf : r ∈ familyRows f := List.mem_filter.2 ⟨hr, beq_iff_eq.2 ((n0_value_of_hit hr h).trans h0)⟩
    exact ⟨r, hf, by rw [← hm r hf, eq_of_beq h]⟩
  · rintro ⟨r, hf, h⟩
    exact ⟨r, (List.mem_filter.1 hf).1, beq_iff_eq.2 (by rw [hm r hf, h])⟩

/-- A family whose rows fix the low nibble besides it: that nibble is the selector (R84). -/
theorem wellFormedWord_iff_n3_mem {f : Nibble} (sel : List Nibble) (h : n0 w = f)
    (hm : ∀ r ∈ familyRows f, r.mask = 0xF00F) (hv : (familyRows f).map (·.value) = sel.map (word4 f 0 0)) :
    wellFormedWord w = true ↔ n3 w ∈ sel := by
  have hinj : Function.Injective (word4 f 0 0) := fun d d' hd => by rw [← n3_word4 f 0 0 d, hd, n3_word4]
  rw [wellFormedWord_iff_mem_values h hm, and_f00f, h, hv, List.mem_map_of_injective hinj]

/-- A family whose rows fix the low byte besides it: that byte is the selector (R84). -/
theorem wellFormedWord_iff_nn_mem {f : Nibble} (sel : List Byte) (h : n0 w = f)
    (hm : ∀ r ∈ familyRows f, r.mask = 0xF0FF) (hv : (familyRows f).map (·.value) = sel.map (wordX8 f 0)) :
    wellFormedWord w = true ↔ nnOf w ∈ sel := by
  have hinj : Function.Injective (wordX8 f 0) := fun n n' hn => by rw [← nnOf_wordX8 f 0 n, hn, nnOf_wordX8]
  rw [wellFormedWord_iff_mem_values h hm, and_f0ff, h, hv, List.mem_map_of_injective hinj]

/-! ## The legal words of each family -/

/-- The families whose every word is legal, since their one row fixes nothing else (R86). -/
def wholeFamilies : List Nibble := [0x1, 0x2, 0x3, 0x4, 0x6, 0x7, 0xA, 0xB, 0xC, 0xD]

/-- The selectors of family 8 (R172). -/
def selectors8 : List Nibble := [0x0, 0x1, 0x2, 0x3, 0x4, 0x5, 0x6, 0x7, 0xE]

/-- The selectors of family E (R155). -/
def selectorsE : List Byte := [0x9E, 0xA1]

/-- The selectors of family F (R220). -/
def selectorsF : List Byte := [0x07, 0x0A, 0x15, 0x18, 0x1E, 0x29, 0x33, 0x55, 0x65]

/-- Every family, by the kind of selector it has (R84, R86). -/
theorem family_cases (f : Nibble) :
    f = 0x0 ∨ f ∈ wholeFamilies ∨ (f = 0x5 ∨ f = 0x9) ∨ f = 0x8 ∨ f = 0xE ∨ f = 0xF := by
  revert f; decide

theorem wellFormedWord_iff_of_family0 (h : n0 w = 0x0) : wellFormedWord w = true ↔ w = 0x00E0 ∨ w = 0x00EE := by
  have hv : (familyRows 0x0).map (·.value) = [0x00E0, 0x00EE] := by decide
  rw [wellFormedWord_iff_mem_values (m := BitVec.allOnes 16) h (by decide), BitVec.and_allOnes, hv, List.mem_pair]

theorem wellFormedWord_of_wholeFamily (h : n0 w ∈ wholeFamilies) : wellFormedWord w = true := by
  have hrows : ∀ f ∈ wholeFamilies, (∀ r ∈ familyRows f, r.mask = 0xF000) ∧
      word4 f 0 0 0 ∈ (familyRows f).map (·.value) := by decide
  obtain ⟨hm, hv⟩ := hrows _ h
  rwa [wellFormedWord_iff_mem_values rfl hm, and_f000]

theorem wellFormedWord_iff_of_family5_or_9 (h : n0 w = 0x5 ∨ n0 w = 0x9) : wellFormedWord w = true ↔ n3 w = 0 := by
  rw [← List.mem_singleton (a := n3 w)]
  rcases h with h | h
  · exact wellFormedWord_iff_n3_mem [0] h (by decide) (by decide)
  · exact wellFormedWord_iff_n3_mem [0] h (by decide) (by decide)

theorem wellFormedWord_iff_of_family8 (h : n0 w = 0x8) : wellFormedWord w = true ↔ n3 w ∈ selectors8 :=
  wellFormedWord_iff_n3_mem selectors8 h (by decide) (by decide)

theorem wellFormedWord_iff_of_familyE (h : n0 w = 0xE) : wellFormedWord w = true ↔ nnOf w ∈ selectorsE :=
  wellFormedWord_iff_nn_mem selectorsE h (by decide) (by decide)

theorem wellFormedWord_iff_of_familyF (h : n0 w = 0xF) : wellFormedWord w = true ↔ nnOf w ∈ selectorsF :=
  wellFormedWord_iff_nn_mem selectorsF h (by decide) (by decide)

/-- Settles O10, family by family. R86 lists the illegal selectors of family 8 and the legal ones of the others. -/
theorem illegalWordsAreTheListedOnes : Obligations.IllegalWordsAreTheListedOnes := by
  unfold Obligations.IllegalWordsAreTheListedOnes
  intro w
  rw [← Bool.not_eq_true]
  rcases family_cases (n0 w) with h | h | h | h | h | h
  · simp [wellFormedWord_iff_of_family0 h, h]
  · have hother : ∀ f ∈ wholeFamilies, f ≠ 0#4 ∧ f ≠ 5#4 ∧ f ≠ 9#4 ∧ f ≠ 8#4 ∧ f ≠ 14#4 ∧ f ≠ 15#4 := by decide
    obtain ⟨h0, h5, h9, h8, hE, hF⟩ := hother _ h
    simp [wellFormedWord_of_wholeFamily h, h0, h5, h9, h8, hE, hF]
  · rw [wellFormedWord_iff_of_family5_or_9 h]
    rcases h with h | h <;> simp [h]
  · have hcompl : ∀ d : Nibble, d ∉ selectors8 ↔ d ∈ [0x8, 0x9, 0xA, 0xB, 0xC, 0xD, 0xF] := by decide
    rw [wellFormedWord_iff_of_family8 h, hcompl]
    simp [h]
  · simp [wellFormedWord_iff_of_familyE h, h, selectorsE]
  · simp [wellFormedWord_iff_of_familyF h, h, selectorsF]

end Sys2Proof
end

section
/-! SUPPORT. The decoder accepts the legal words and no others, and what a step does with a word it refuses
(spec/30_encoding.md R84 to R86, spec/60_exceptions.md R250). -/

namespace Sys2Proof
variable {w : Word}

/-! ## The words each family's decoder accepts -/

/-- A chain of tests accepts when its first test holds or the rest of it accepts. -/
theorem exists_ite_eq_ok {c : Prop} [Decidable c] {i : Instr} {e : Except Reject Instr} :
    (∃ j, (if c then .ok i else e) = .ok j) ↔ c ∨ ∃ j, e = .ok j := by
  by_cases hc : c <;> simp [hc]

theorem decodeFamily0_accepts_iff : (∃ i, decodeFamily0 w = .ok i) ↔ w = 0x00E0 ∨ w = 0x00EE := by
  simp [decodeFamily0, exists_ite_eq_ok]

theorem decodeFamily8_accepts_iff : (∃ i, decodeFamily8 w = .ok i) ↔ n3 w ∈ selectors8 := by
  simp [decodeFamily8, exists_ite_eq_ok, selectors8]

theorem decodeFamilyE_accepts_iff : (∃ i, decodeFamilyE w = .ok i) ↔ nnOf w ∈ selectorsE := by
  simp [decodeFamilyE, exists_ite_eq_ok, selectorsE]

theorem decodeFamilyF_accepts_iff : (∃ i, decodeFamilyF w = .ok i) ↔ nnOf w ∈ selectorsF := by
  simp [decodeFamilyF, exists_ite_eq_ok, selectorsF]

theorem decodeWord_accepts_of_wholeFamily (h : n0 w ∈ wholeFamilies) : ∃ i, decodeWord w = .ok i := by
  simp only [wholeFamilies, List.mem_cons, List.not_mem_nil, or_false] at h
  rcases h with h | h | h | h | h | h | h | h | h | h <;> simp [decodeWord, h]

theorem decodeWord_accepts_iff_of_family5_or_9 (h : n0 w = 0x5 ∨ n0 w = 0x9) :
    (∃ i, decodeWord w = .ok i) ↔ n3 w = 0 := by
  rcases h with h | h <;> simp [decodeWord, h, exists_ite_eq_ok]

/-! ## The decoder against the opcode map -/

/-- In each family the decoder and the map have the same selectors. -/
theorem decodeWord_accepts_iff (w : Word) : (∃ i, decodeWord w = .ok i) ↔ wellFormedWord w = true := by
  rcases family_cases (n0 w) with h | h | h | h | h | h
  · rw [decodeWord_of_family0 h, decodeFamily0_accepts_iff, wellFormedWord_iff_of_family0 h]
  · exact iff_of_true (decodeWord_accepts_of_wholeFamily h) (wellFormedWord_of_wholeFamily h)
  · rw [decodeWord_accepts_iff_of_family5_or_9 h, wellFormedWord_iff_of_family5_or_9 h]
  · rw [decodeWord_of_family8 h, decodeFamily8_accepts_iff, wellFormedWord_iff_of_family8 h]
  · rw [decodeWord_of_familyE h, decodeFamilyE_accepts_iff, wellFormedWord_iff_of_familyE h]
  · rw [decodeWord_of_familyF h, decodeFamilyF_accepts_iff, wellFormedWord_iff_of_familyF h]

theorem decodeWord_error_of_illegal (h : wellFormedWord w = false) : ∃ e, decodeWord w = .error e := by
  cases hd : decodeWord w with
  | error e => exact ⟨e, rfl⟩
  | ok i => exact absurd ((decodeWord_accepts_iff w).1 ⟨i, hd⟩) (ne_true_of_eq_false h)

/-- Settles O8: `decodeWord_accepts_iff`, a case analysis over the families. -/
theorem decoderAcceptsExactlyTheOpcodeMap : Obligations.DecoderAcceptsExactlyTheOpcodeMap := by
  unfold Obligations.DecoderAcceptsExactlyTheOpcodeMap
  exact decodeWord_accepts_iff

end Sys2Proof

namespace Sys2Proof.Machine

/-- Settles O14: phases (a) to (c) leave the fetched word as it is, and the decoder refuses it. -/
theorem illegalWordHalts : Obligations.IllegalWordHalts := by
  unfold Obligations.IllegalWordHalts
  intro s w hrun hskip hhi hlo hw hill
  obtain ⟨e, he⟩ := decodeWord_error_of_illegal hill
  have hfetch : fetch s.beforePhaseD = .ok w := by rw [fetch_beforePhaseD, fetch_ok s hhi hlo, hw]
  rw [step_running hrun, phaseD_illegal (s.skip_beforePhaseD.trans hskip) hfetch he]
  simp [raiseIllegal, raise]

end Sys2Proof.Machine
end

section
/-! SUPPORT. One step of the machine, case by case (spec/40_interpreter_loop.md R100 to R115): the iteration that executes an
instruction, the fetch that faults, the pending skip, the key wait and the halted block. -/

namespace Sys2Proof.Machine
variable {s t : State} {i : Instr} {x : RegIx}

/-! ## Phases (a) to (c) -/

/-- The timer phase, the poll and the start of the loop write the timers, the accumulator, the keys and the model's own
fields only (R100). -/
theorem State.beforePhaseD_eq (s : State) : s.beforePhaseD =
    { s with dt := s.beforePhaseD.dt, st := s.beforePhaseD.st, acc := s.beforePhaseD.acc,
             keys := Config.pollKeys (s.draws + 1), draws := s.draws + 2,
             extents := s.beforePhaseD.extents, started := true, blocked := 0 } := by
  simp only [State.beforePhaseD, State.pollInput, State.timerPhase, State.startLoop, State.timersAdvance,
    State.clearBlocked, State.setKeys, State.nextDraw]

/-! ## The iteration that executes an instruction -/

theorem step_exec (hrun : s.run = .running) (hskip : s.skip = 0) (hhi : InWindow s.pc.toNat)
    (hlo : InWindow (s.pc.toNat + 1))
    (hd : decodeBytes (s.mem.read s.pc.toNat) (s.mem.read (s.pc.toNat + 1)) = .ok i) :
    step s = exec i s.beforePhaseD := by
  rw [step_running hrun]
  exact phaseD_exec (s.skip_beforePhaseD.trans hskip) ((fetch_beforePhaseD s).trans (fetch_ok s hhi hlo)) hd

/-- An iteration whose instruction completes with the effect `t`, at a PC that can advance. -/
theorem step_of_completes (hrun : s.run = .running) (hskip : s.skip = 0) (hpc : InWindow s.pc.toNat) (hadv : CanAdvance s)
    (hd : decodeBytes (s.mem.read s.pc.toNat) (s.mem.read (s.pc.toNat + 1)) = .ok i)
    (hc : CompletesOrFaultsOnAdvance i s.beforePhaseD t) : step s = .next (t.setPc (s.pc + 2)) := by
  have hlo : InWindow (s.pc.toNat + 1) := ⟨Nat.le_succ_of_le hpc.1, Nat.lt_of_succ_lt hadv.2⟩
  rw [step_exec hrun hskip hpc hlo hd, hc.1 ((canAdvance_beforePhaseD s).2 hadv), State.pc_beforePhaseD]
  rfl

/-! ## The iterations that execute none -/

theorem step_fetch_error (hrun : s.run = .running) (hskip : s.skip = 0) {a : Nat}
    (hf : fetch s = .error (invalidAddress a)) :
    step s = .next { s.beforePhaseD with run := .halted ⟨.invalidAddress, s.pc, none, .address a⟩ } := by
  rw [step_running hrun,
    phaseD_fetch_error (s.skip_beforePhaseD.trans hskip) ((fetch_beforePhaseD s).trans hf)]
  simp [raiseFetch, raise, invalidAddress]

theorem step_pendingSkip (hrun : s.run = .running) (hskip : 0 < s.skip) :
    step s = .next (consumeSkip s.beforePhaseD) := by
  rw [step_running hrun, phaseD_skip (by rwa [State.skip_beforePhaseD])]

theorem consumeSkip_ok (h : CanAdvance s) : consumeSkip s = s.decSkip.setPc (s.pc + 2) :=
  advance_ok none s s.decSkip h

theorem consumeSkip_error (h : ¬ CanAdvance s) :
    consumeSkip s = { s with run := .halted ⟨.invalidAddress, s.pc, none, .address (s.pc.toNat + 2)⟩ } :=
  advance_error none s s.decSkip h

theorem step_pendingSkip_ok (hrun : s.run = .running) (hskip : 0 < s.skip) (hadv : CanAdvance s) :
    step s = .next (s.beforePhaseD.decSkip.setPc (s.pc + 2)) := by
  rw [step_pendingSkip hrun hskip, consumeSkip_ok ((canAdvance_beforePhaseD s).2 hadv), State.pc_beforePhaseD]

/-! ## The key wait and the halted block -/

theorem resumeKey_ok (k : Fin 16) (h : CanAdvance s) : resumeKey x k s =
    { s with v := s.v.set x.val (BitVec.ofNat 8 k.val), run := .running, pc := s.pc + 2 } :=
  advance_ok _ s ((s.setReg x _).setRun .running) h

theorem resumeKey_error (k : Fin 16) (h : ¬ CanAdvance s) :
    resumeKey x k s = haltedAt s (.ldVxK x) .invalidAddress (.address (s.pc.toNat + 2)) :=
  advance_error _ s ((s.setReg x _).setRun .running) h

theorem step_halted {e : ErrRecord} (h : s.run = .halted e) : step s = .fault .halted := by
  unfold step; rw [h]

/-- Phase (d) always answers a next state: a fault halts the block there (R252). -/
theorem phaseD_next (s : State) : ∃ t, phaseD s = .next t := by
  rcases phaseD_cases s with ⟨_, h⟩ | ⟨_, _, _, h⟩ | ⟨_, _, _, _, _, h⟩ | ⟨_, _, i, _, _, h⟩
  · exact ⟨_, h⟩
  · exact ⟨_, h⟩
  · exact ⟨_, h⟩
  · obtain ⟨t, ht, _⟩ := InstrEffect.exists_next i s
    exact ⟨t, h.trans ht⟩

/-! ## The statements -/

/-- Settles O16: the skip requests 1, which the next iteration finds pending and consumes. -/
theorem skipTakesEffectOneIterationLate : Obligations.SkipTakesEffectOneIterationLate := by
  unfold Obligations.SkipTakesEffectOneIterationLate
  intro s i hrun hskip hpc hadv hd
  have hstep : ∀ b, skipCondition i s.beforePhaseD = some b →
      step s = .next ((s.beforePhaseD.requestSkip b).setPc (s.pc + 2)) := fun b hb =>
    step_of_completes hrun hskip hpc hadv hd (skip_completes hb)
  refine ⟨fun hb hadv4 => ?_, fun hb => ⟨_, hstep false hb, by simp [hrun, hskip]⟩⟩
  have hadv' : CanAdvance ((s.beforePhaseD.requestSkip true).setPc (s.pc + 2)) := by
    rwa [CanAdvance, State.pc_setPc, toNat_pc_add_two hadv]
  have hnext := step_pendingSkip_ok (by simpa using hrun) (by simp) hadv'
  exact ⟨_, _, hstep true hb, by simp, by simp [hskip], hnext, by simp [hrun, hskip, BitVec.add_assoc]⟩

/-- Settles O12: `step_exec` and the frame of phases (a) to (c). -/
theorem stepRunsTheDecodedInstruction : Obligations.StepRunsTheDecodedInstruction := by
  unfold Obligations.StepRunsTheDecodedInstruction
  exact ⟨fun _ _ => step_exec, State.beforePhaseD_eq⟩

/-- Settles O13: the fetch reads the high byte first. -/
theorem fetchOutsideTheWindowHalts : Obligations.FetchOutsideTheWindowHalts := by
  unfold Obligations.FetchOutsideTheWindowHalts
  exact fun s hrun hskip => ⟨fun hhi => step_fetch_error hrun hskip (fetch_error_high s hhi),
    fun hhi hlo => step_fetch_error hrun hskip (fetch_error_low s hhi hlo)⟩

/-- Settles O15: consuming a skip is an advance, with no fetch. -/
theorem pendingSkipIsConsumedUnread : Obligations.PendingSkipIsConsumedUnread := by
  unfold Obligations.PendingSkipIsConsumedUnread
  intro s hrun hskip
  refine ⟨fun hadv => ?_, fun hadv => ?_⟩
  · rw [step_pendingSkip_ok hrun hskip hadv]
    simp [State.setPc, State.decSkip]
  · rw [step_pendingSkip hrun hskip, consumeSkip_error (mt (canAdvance_beforePhaseD s).1 hadv)]
    simp

/-- Settles O18. -/
theorem haltedBlockNeverSteps : Obligations.HaltedBlockNeverSteps := by
  unfold Obligations.HaltedBlockNeverSteps
  exact fun _ _ => step_halted

/-- Settles O19: a running block does phase (d), and a waiting one a moment of its wait. -/
theorem stepStopsOnlyWhenHalted : Obligations.StepStopsOnlyWhenHalted := by
  unfold Obligations.StepStopsOnlyWhenHalted
  intro s
  cases hrun : s.run with
  | running =>
    obtain ⟨t, ht⟩ := phaseD_next s.beforePhaseD
    exact .inl ⟨t, (step_running hrun).trans ht⟩
  | waitingKey x => exact .inl ⟨_, step_waiting hrun⟩
  | halted e => exact .inr ⟨e, rfl⟩

/-- Settles O43: FX0A only sets the run state, and its word is R90's. -/
theorem keyWaitSuspendsTheBlock : Obligations.KeyWaitSuspendsTheBlock := by
  unfold Obligations.KeyWaitSuspendsTheBlock
  exact fun x s => ⟨wordX8_eq_fieldsX 0xF x 0x0A, rfl⟩

/-- Settles O44: `waitStep_cases`, with the resumption's advance where a key comes. -/
theorem keyWaitEndsOnlyWithAKey : Obligations.KeyWaitEndsOnlyWithAKey := by
  unfold Obligations.KeyWaitEndsOnlyWithAKey
  intro x s hrun
  rw [step_waiting hrun]
  rcases waitStep_cases x s with ⟨hkey, e⟩ | ⟨k, hkey, e⟩ <;> rw [hkey, e]
  · exact ⟨fun _ => rfl, nofun⟩
  · refine ⟨nofun, fun k' hk => ?_⟩
    cases hk
    refine ⟨fun hadv => ?_, fun hadv => ?_⟩
    · rw [resumeKey_ok k (s := s.passWait.nextDraw) hadv]; rfl
    · rw [resumeKey_error k (s := s.passWait.nextDraw) hadv]; rfl

/-- Settles O52: both instructions run from the state that the ticks have left. -/
theorem ticksComeBeforeTheInstruction : Obligations.TicksComeBeforeTheInstruction := by
  unfold Obligations.TicksComeBeforeTheInstruction
  intro s x hrun hskip hpc hadv
  refine ⟨fun hd => ?_, fun hd => ?_⟩
  · have hc : CompletesOrFaultsOnAdvance (.ldVxDt x) s.beforePhaseD (s.beforePhaseD.setReg x s.beforePhaseD.dt) :=
      completes_of_advance rfl rfl
    exact ⟨_, step_of_completes hrun hskip hpc hadv hd hc, by simp⟩
  · have hc : CompletesOrFaultsOnAdvance (.ldDtVx x) s.beforePhaseD (s.beforePhaseD.setDt (s.beforePhaseD.reg x)) :=
      completes_of_advance rfl rfl
    exact ⟨_, step_of_completes hrun hskip hpc hadv hd hc, by simp⟩

end Sys2Proof.Machine
end

section
/-! SUPPORT. The kinds of fault (spec/60_exceptions.md R250, R251): which each handler can raise, which each instruction, and
which a step. -/

namespace Sys2Proof.Machine

/-- If the block is halted in `t`, the kind of its error record is one of `ks`. -/
def HaltsOnlyWith (ks : List FaultKind) (t : State) : Prop := ∀ e, t.run = .halted e → e.kind ∈ ks

/-- A handler's answer from `s`: what it raises has a kind of `ks`, and where it does not raise it keeps the run state. -/
def RaisesOnly (ks : List FaultKind) (s : State) : Except Raised State → Prop
  | .error r => r.kind ∈ ks
  | .ok s1 => s1.run = s.run

/-! ## The handlers that may raise -/

theorem writeBytes_error_kind {r : Raised} : ∀ {bs : List Byte} {m : Memory} {a : Nat},
    writeBytes m a bs = .error r → r.kind = .invalidAddress
  | [], _, _, h => nomatch h
  | b :: bs, m, a, h => by
    by_cases ha : InWindow a
    · simp only [writeBytes, memWrite_ok b ha] at h
      exact writeBytes_error_kind h
    · simp only [writeBytes, memWrite_error b ha] at h
      cases h; rfl

namespace RaisesOnly
variable {ks : List FaultKind} (s : State) (x : RegIx)

theorem popPc (hk : .stackUnderflow ∈ ks) : RaisesOnly ks s s.popPc := by
  by_cases h : s.sp.val = 0
  · rw [State.popPc_error s h]; exact hk
  · rw [State.popPc_ok s h]; rfl

theorem push (hk : .stackOverflow ∈ ks) (w : Word) : RaisesOnly ks s (s.push w) := by
  by_cases h : s.sp.val < 16
  · rw [State.push_ok s w h]; rfl
  · rw [State.push_error s w h]; exact hk

theorem skipIfDown (hk : .keyRange ∈ ks) : RaisesOnly ks s (s.skipIfDown x) := by
  unfold State.skipIfDown
  by_cases h : (s.reg x).toNat ≤ 15
  · rw [keyCheck_ok h]; rfl
  · rw [keyCheck_error (by omega)]; exact hk

theorem pointAtGlyph (hk : .glyphRange ∈ ks) (g : Nat) : RaisesOnly ks s (State.pointAtGlyph g s x) := by
  unfold State.pointAtGlyph
  by_cases h : (s.reg x).toNat ≤ 15
  · rw [glyphAddress_ok g h]; rfl
  · rw [glyphAddress_error g (by omega)]; exact hk

theorem drawWith (ha : .invalidAddress ∈ ks) (hg : .glyphRange ∈ ks) (g : Nat) (font : Font) (y : RegIx) (n : Fin 16) :
    RaisesOnly ks s (State.drawWith g font s x y n) := by
  unfold State.drawWith
  rcases spriteRows_cases g font s.mem s.iAddr n.val with ⟨rows, e, _⟩ | ⟨r, e, hr | hr⟩ <;> rw [e]
  · rfl
  · show r.kind ∈ ks
    rwa [hr]
  · show r.kind ∈ ks
    rwa [hr]

theorem storeAtI (hk : .invalidAddress ∈ ks) (bs : List Byte) : RaisesOnly ks s (s.storeAtI bs) := by
  unfold State.storeAtI
  cases h : writeBytes s.mem s.iAddr bs with
  | error r =>
    show r.kind ∈ ks
    rwa [writeBytes_error_kind h]
  | ok m => rfl

theorem storeRegsAtI (hk : .invalidAddress ∈ ks) : RaisesOnly ks s (s.storeRegsAtI x) := by
  have hstore := storeAtI s hk (s.regsUpTo x)
  unfold State.storeRegsAtI
  cases h : s.storeAtI (s.regsUpTo x) with
  | error r => rwa [h] at hstore
  | ok s1 => rwa [h] at hstore

theorem loadRegsAtI (hk : .invalidAddress ∈ ks) : RaisesOnly ks s (s.loadRegsAtI x) := by
  unfold State.loadRegsAtI
  rcases readBytes_cases s.mem (x.val + 1) s.iAddr with ⟨_, e⟩ | ⟨j, _, _, _, e⟩ <;> rw [e]
  · rfl
  · exact hk

end RaisesOnly

/-! ## The ends of phase (d) -/

namespace HaltsOnlyWith
variable {ks : List FaultKind} {s t s0 s1 : State} {op : Option Word}

theorem of_running (h : t.run = .running) : HaltsOnlyWith ks t := fun _ he => nomatch h.symm.trans he

theorem of_waitingKey {x : RegIx} (h : t.run = .waitingKey x) : HaltsOnlyWith ks t := fun _ he => nomatch h.symm.trans he

theorem mono {ks' : List FaultKind} (h : HaltsOnlyWith ks t) (hsub : ks ⊆ ks') : HaltsOnlyWith ks' t :=
  fun e he => hsub (h e he)

theorem raise {r : Raised} (hk : r.kind ∈ ks) : HaltsOnlyWith ks (Machine.raise op s0 s1 r) := by
  intro e he
  cases he
  exact hk

theorem writePc {a : Nat} (hk : .invalidAddress ∈ ks) (hrun : s1.run = .running) :
    HaltsOnlyWith ks (Machine.writePc op s0 s1 a) := by
  rcases writePc_cases op s0 s1 a with ⟨_, e⟩ | ⟨_, e⟩ <;> rw [e]
  · exact of_running hrun
  · exact raise hk

theorem advance (hk : .invalidAddress ∈ ks) (hrun : s1.run = .running) : HaltsOnlyWith ks (Machine.advance op s0 s1) :=
  writePc hk hrun

theorem tryAdvance {r : Except Raised State} (hk : .invalidAddress ∈ ks) (hrun : s.run = .running)
    (h : RaisesOnly ks s r) : HaltsOnlyWith ks (Machine.tryAdvance op s r) := by
  cases r with
  | error r => exact raise h
  | ok s1 => exact advance hk (Eq.trans h hrun)

theorem callState {nnn : Imm12} (hk : .invalidAddress ∈ ks) (ho : .stackOverflow ∈ ks) (hrun : s.run = .running) :
    HaltsOnlyWith ks (Machine.callState nnn s) := by
  have hpush := RaisesOnly.push s ho s.pc
  unfold Machine.callState
  cases h : s.push s.pc with
  | error r => rw [h] at hpush; exact raise hpush
  | ok s1 => rw [h] at hpush; exact writePc hk (Eq.trans hpush hrun)

end HaltsOnlyWith

/-! ## The instructions -/

/-- An instruction raises only the kinds that R251 lists for it. -/
theorem exec_haltsOnlyWith {i : Instr} {s t : State} (hrun : s.run = .running) (h : exec i s = .next t) :
    HaltsOnlyWith (raisableKinds i) t := by
  have ha : (∀ x, i ≠ .ldVxK x) → .invalidAddress ∈ raisableKinds i := by
    cases i <;> simp [raisableKinds]
  cases i with
  | cls | ldImm _ _ | addImm _ _ | rnd _ _ | ldReg _ _ | orReg _ _ | andReg _ _ | xorReg _ _ | addReg _ _ | subReg _ _
  | subnReg _ _ | shr _ _ | shl _ _ | ldI _ | addI _ | ldVxDt _ | ldDtVx _ | ldStVx _ | seImm _ _ | sneImm _ _
  | seReg _ _ | sneReg _ _ => cases h; exact .advance (ha nofun) hrun
  | jp _ | jpV0 _ => cases h; exact .writePc (ha nofun) hrun
  | call _ => cases h; exact .callState (ha nofun) (.head _) hrun
  | ret => cases h; exact .tryAdvance (ha nofun) hrun (.popPc s (.head _))
  | skp x | sknp x => cases h; exact .tryAdvance (ha nofun) hrun (.skipIfDown s x (.head _))
  | drw x y n => cases h; exact .tryAdvance (ha nofun) hrun (.drawWith s x (ha nofun) (.tail _ (.head _)) _ _ y n)
  | ldF x => cases h; exact .tryAdvance (ha nofun) hrun (.pointAtGlyph s x (.head _) _)
  | ldB x => cases h; exact .tryAdvance (ha nofun) hrun (.storeAtI s (ha nofun) _)
  | storeRegs x => cases h; exact .tryAdvance (ha nofun) hrun (.storeRegsAtI s x (ha nofun))
  | loadRegs x => cases h; exact .tryAdvance (ha nofun) hrun (.loadRegsAtI s x (ha nofun))
  | ldVxK x => cases h; exact .of_waitingKey (x := x) rfl

/-! ## The step -/

/-- The kinds of R250 that it does not call unreachable. -/
def reachableKinds : List FaultKind :=
  [.invalidOperand, .invalidAddress, .stackOverflow, .stackUnderflow, .keyRange, .glyphRange]

theorem raisableKinds_subset_reachableKinds (i : Instr) : raisableKinds i ⊆ reachableKinds := by
  cases i <;> simp [raisableKinds, reachableKinds]

theorem fetch_error_kind {s : State} {r : Raised} (h : fetch s = .error r) : r.kind = .invalidAddress := by
  rcases fetch_cases s with ⟨w, e⟩ | ⟨a, e⟩ <;> cases e.symm.trans h
  rfl

/-- A step that halts the block does so with a kind that R250 calls reachable. -/
theorem step_haltsOnlyWith {s t : State} (h : step s = .next t) : HaltsOnlyWith reachableKinds t := by
  have ha : .invalidAddress ∈ reachableKinds := by decide
  rcases step_next_cases h with ⟨hrun, hph⟩ | ⟨x, hrun, rfl⟩
  · have hrun' := s.run_beforePhaseD.trans hrun
    rcases phaseD_cases s.beforePhaseD with ⟨_, e⟩ | ⟨_, r, hf, e⟩ | ⟨_, w, _, _, _, e⟩ | ⟨_, w, i, _, _, e⟩ <;>
      rw [e] at hph
    · cases hph; exact .advance ha hrun'
    · cases hph; exact .raise (fetch_error_kind hf ▸ ha)
    · cases hph; exact .raise (.head _)
    · exact (exec_haltsOnlyWith hrun' hph).mono (raisableKinds_subset_reachableKinds i)
  · rcases waitStep_cases x s with ⟨_, e⟩ | ⟨k, _, e⟩ <;> rw [e]
    · exact .of_waitingKey hrun
    · exact .advance ha rfl

/-- Settles O20: the two kinds are not among those of `step_haltsOnlyWith`. -/
theorem unreachableKindsAreNeverRaised : Obligations.UnreachableKindsAreNeverRaised := by
  unfold Obligations.UnreachableKindsAreNeverRaised
  intro s t e h he
  have hkinds : ∀ k ∈ reachableKinds, k ≠ .decodeError ∧ k ≠ .invalidRegisterIndex := by decide
  exact hkinds e.kind (step_haltsOnlyWith h e he)

end Sys2Proof.Machine
end

section
/-! SUPPORT. Control flow (spec/41_control_flow.md R130 to R136): the word of each instruction, the state it leaves and the
fault it raises, and a CALL with the RET that answers it. -/

namespace Sys2Proof.Machine
variable {s : State} {nnn : Imm12} {k : Fin 16}

/-! ## The canvas that CLS leaves -/

theorem pixel_blankCanvas (px py : Nat) : pixel blankCanvas px py = false := by
  simp [pixel, blankCanvas]

/-! ## The call stack with its depth named -/

/-- With `k` entries live, a push writes entry `k`. -/
theorem State.push_of_sp_eq_castSucc (hk : s.sp = k.castSucc) (w : Word) :
    s.push w = .ok { s with stack := s.stack.set k.val w, sp := k.succ } := by
  have hlt : s.sp.val < 16 := by rw [hk]; exact k.isLt
  rw [State.push_ok s w hlt]
  simp only [hk]
  rfl

/-- With `k + 1` entries live, a pop reads entry `k`. -/
theorem State.popPc_of_sp_eq_succ (hk : s.sp = k.succ) :
    s.popPc = .ok { s with pc := s.stack.get k, sp := k.castSucc } := by
  have hne : s.sp.val ≠ 0 := by rw [hk]; exact Nat.succ_ne_zero k
  rw [State.popPc_ok s hne]
  simp only [hk]
  rfl

/-! ## CALL -/

theorem exec_call_of_push_ok {s1 : State} (h : s.push s.pc = .ok s1) :
    exec (.call nnn) s = .next (writePc (some (encode (.call nnn))) s s1 nnn.toNat) := by
  change Host.Outcome.next (callState nnn s) = _
  rw [callState, h]

theorem exec_call_of_push_error {f : FaultKind} {e : FaultInfo} (h : s.push s.pc = .error ⟨f, e⟩) :
    exec (.call nnn) s = .next (haltedAt s (.call nnn) f e) := by
  change Host.Outcome.next (callState nnn s) = _
  rw [callState, h]
  rfl

theorem exec_call_ok (hk : s.sp = k.castSucc) (ht : InWindow nnn.toNat) : exec (.call nnn) s =
    .next { s with stack := s.stack.set k.val s.pc, sp := k.succ, pc := nnn.setWidth 16 } := by
  rw [jumps_of_writePc (exec_call_of_push_ok (State.push_of_sp_eq_castSucc hk s.pc)) ht, BitVec.ofNat_toNat]
  rfl

/-- An iteration that executes a CALL leaves the block running at the target, the CALL's own address on top of the stack. -/
theorem step_call (hrun : s.run = .running) (hskip : s.skip = 0) (hhi : InWindow s.pc.toNat)
    (hlo : InWindow (s.pc.toNat + 1))
    (hd : decodeBytes (s.mem.read s.pc.toNat) (s.mem.read (s.pc.toNat + 1)) = .ok (.call nnn))
    (hk : s.sp = k.castSucc) (ht : InWindow nnn.toNat) :
    ∃ t, step s = .next t ∧ t.run = .running ∧ t.skip = 0 ∧ t.pc = nnn.setWidth 16 ∧ t.sp = k.succ ∧
      t.stack.get k = s.pc ∧ t.v = s.v ∧ t.i = s.i ∧ t.mem = s.mem :=
  ⟨_, (step_exec hrun hskip hhi hlo hd).trans (exec_call_ok (s.sp_beforePhaseD.trans hk) ht),
    by simp [hrun, hskip, Vector.get_eq_getElem]⟩

/-! ## RET -/

/-- A RET with an entry live advances from the popped address. -/
theorem exec_ret_of_sp_eq_succ (hk : s.sp = k.succ) : exec .ret s =
    .next (advance (some (encode .ret)) s { s with pc := s.stack.get k, sp := k.castSucc }) := by
  change Host.Outcome.next (tryAdvance _ s s.popPc) = _
  rw [State.popPc_of_sp_eq_succ hk, tryAdvance_ok]

theorem exec_ret_ok (hk : s.sp = k.succ) (ha : InWindow ((s.stack.get k).toNat + 2)) :
    exec .ret s = .next { s with sp := k.castSucc, pc := s.stack.get k + 2 } := by
  rw [exec_ret_of_sp_eq_succ hk, advance_ok _ _ _ ha]
  rfl

theorem exec_ret_error (hk : s.sp = k.succ) (ha : ¬ InWindow ((s.stack.get k).toNat + 2)) :
    exec .ret s = .next (haltedAt s .ret .invalidAddress (.address ((s.stack.get k).toNat + 2))) := by
  rw [exec_ret_of_sp_eq_succ hk, advance_error _ _ _ ha]
  rfl

/-! ## The statements -/

/-- Settles O23: CLS advances from the state with the blank canvas. -/
theorem clsClearsTheDisplay : Obligations.ClsClearsTheDisplay := by
  unfold Obligations.ClsClearsTheDisplay
  exact ⟨rfl, fun s => ⟨blankCanvas, fun px _ py _ => pixel_blankCanvas px py,
    completes_of_advance (s1 := s.clearDisplay) rfl rfl⟩⟩

/-- Settles O24: the pop raises, or RET advances from the popped address. -/
theorem retPopsAndThenAdvances : Obligations.RetPopsAndThenAdvances := by
  unfold Obligations.RetPopsAndThenAdvances
  exact ⟨rfl, fun s h => halts_of_tryAdvance rfl (State.popPc_error s (congrArg Fin.val h)),
    fun s k hk => ⟨exec_ret_ok hk, exec_ret_error hk⟩⟩

/-- Settles O25: JP is a checked jump that does nothing else. -/
theorem jpJumpsToItsTarget : Obligations.JpJumpsToItsTarget := by
  unfold Obligations.JpJumpsToItsTarget
  intro nnn s
  refine ⟨word12_eq_fieldsNNN 0x1 nnn, fun ht => ?_, fun ht => halts_of_writePc (s1 := s) rfl rfl rfl ht⟩
  rw [jumps_of_writePc (s1 := s) rfl ht, BitVec.ofNat_toNat]
  rfl

/-- Settles O26: the push raises before the target is checked, or CALL is a checked jump from the pushed state. -/
theorem callPushesItsOwnAddress : Obligations.CallPushesItsOwnAddress := by
  unfold Obligations.CallPushesItsOwnAddress
  intro nnn s
  refine ⟨word12_eq_fieldsNNN 0x2 nnn, fun hfull => ?_, fun k hk => ⟨exec_call_ok hk, fun ht => ?_⟩⟩
  · exact exec_call_of_push_error (State.push_error s s.pc (by simp [hfull]))
  · exact halts_of_writePc (exec_call_of_push_ok (State.push_of_sp_eq_castSucc hk s.pc)) rfl rfl ht

/-- Settles O27: JP V0 is a checked jump to the wrapped sum. -/
theorem jpV0WrapsAtTwelveBits : Obligations.JpV0WrapsAtTwelveBits := by
  unfold Obligations.JpV0WrapsAtTwelveBits
  rintro nnn s t rfl
  exact ⟨word12_eq_fieldsNNN 0xB nnn, jumps_of_writePc (s1 := s) rfl, halts_of_writePc (s1 := s) rfl rfl rfl⟩

/-- Settles O17: the first iteration pushes P, the second pops it and advances by 2. -/
theorem callThenReturnLandsAfterTheCall : Obligations.CallThenReturnLandsAfterTheCall := by
  unfold Obligations.CallThenReturnLandsAfterTheCall
  intro s nnn hrun hskip hsp hpc hadv hn hn1 hcall hret
  obtain ⟨k, hk⟩ : ∃ k : Fin 16, s.sp = k.castSucc := ⟨⟨s.sp.val, hsp⟩, rfl⟩
  have hpc1 : InWindow (s.pc.toNat + 1) := ⟨Nat.le_succ_of_le hpc.1, Nat.lt_of_succ_lt hadv.2⟩
  obtain ⟨t, hfirst, htrun, htskip, htpc, htsp, htop, htv, hti, htmem⟩ := step_call hrun hskip hpc hpc1 hcall hk hn
  have htn : t.pc.toNat = nnn.toNat := by rw [htpc]; exact BitVec.toNat_setWidth_of_le (by decide)
  have hsecond : step t = exec .ret t.beforePhaseD :=
    step_exec htrun htskip (by rwa [htn]) (by rwa [htn]) (by rwa [htn, htmem])
  have hpop := exec_ret_ok (t.sp_beforePhaseD.trans htsp) (by rwa [State.stack_beforePhaseD, htop])
  exact ⟨t, _, hfirst, htpc, hsecond.trans hpop, by simp [htop], hk.symm, by simp [htv, hti, htmem]⟩

end Sys2Proof.Machine
end

section
/-! SUPPORT. The conditional skips (spec/42_conditional_skip.md R150 to R158): the skip request as the statements write it, the
iteration whose fetched word is illegal, and the key number that the key skips refuse. -/

namespace Sys2Proof.Machine
variable {s : State} {i : Instr}

/-! ## The skip request -/

/-- `RequestSkip(cond)` as R150 writes it, with the branch on the condition. -/
theorem State.requestSkip_decide (s : State) (c : Prop) [Decidable c] :
    s.requestSkip (decide c) = { s with skip := if c then s.skip + 1 else s.skip } := by
  by_cases h : c <;> simp [State.requestSkip, h]

/-- A conditional skip whose condition is `c` requests a skip exactly when `c` holds. -/
theorem completes_of_skipCondition {c : Prop} [Decidable c] (h : skipCondition i s = some (decide c)) :
    CompletesOrFaultsOnAdvance i s { s with skip := if c then s.skip + 1 else s.skip } :=
  s.requestSkip_decide c ▸ skip_completes h

/-! ## The illegal words of families 5 and 9 -/

/-- A fetch that answers has read two bytes of the window. -/
theorem inWindow_of_fetch_ok {w : Word} (h : fetch s = .ok w) : InWindow s.pc.toNat ∧ InWindow (s.pc.toNat + 1) := by
  by_cases hhi : InWindow s.pc.toNat
  · refine ⟨hhi, by_contra fun hlo => ?_⟩
    exact nomatch (fetch_error_low s hhi hlo).symm.trans h
  · exact nomatch (fetch_error_high s hhi).symm.trans h

/-- O14 for a word given by its fetch, not by its two bytes. -/
theorem step_of_fetch_illegal {w : Word} (hrun : s.run = .running) (hskip : s.skip = 0) (hf : fetch s = .ok w)
    (hill : wellFormedWord w = false) :
    step s = .next { s.beforePhaseD with run := .halted ⟨.invalidOperand, s.pc, some w, .word w⟩ } := by
  obtain ⟨hhi, hlo⟩ := inWindow_of_fetch_ok hf
  have hw : w = wordOfBytes (s.mem.read s.pc.toNat) (s.mem.read (s.pc.toNat + 1)) :=
    Except.ok.inj (hf.symm.trans (fetch_ok s hhi hlo))
  exact illegalWordHalts s w hrun hskip hhi hlo hw hill

/-- A word of family 5 or 9 with a low nibble other than 0 is illegal (R153, R154). -/
theorem wellFormedWord_word4_eq_false {f : Nibble} (hf : f = 0x5 ∨ f = 0x9) {n : Fin 16} (hn : n ≠ 0) (x y : Nibble) :
    wellFormedWord (word4 f x y (nibbleOf n)) = false := by
  have hn3 : n3 (word4 f x y (nibbleOf n)) ≠ 0 := by
    rw [n3_word4]
    exact fun h => hn (congrArg BitVec.toFin h)
  rw [← Bool.not_eq_true, wellFormedWord_iff_of_family5_or_9 (by rwa [n0_word4])]
  exact hn3

/-! ## The key skips -/

theorem skipCondition_key {x : RegIx} (hi : i = .skp x ∨ i = .sknp x) (hk : (s.reg x).toNat ≤ 15) :
    skipCondition i s = some (decide (s.keys.getLsbD (s.reg x).toNat = true)) := by
  rcases hi with rfl | rfl <;> simp [skipCondition, hk]

/-- A key number above 15 raises KeyRange of it (R158). -/
theorem State.skipIfDown_error {x : RegIx} (h : 15 < (s.reg x).toNat) :
    s.skipIfDown x = .error ⟨.keyRange, .value (s.reg x)⟩ := by
  rw [State.skipIfDown, keyCheck_error h]

/-! ## The statements -/

/-- Settles O28: each condition is the one `skipCondition` states. -/
theorem immediateSkipsCompareARegister : Obligations.ImmediateSkipsCompareARegister := by
  unfold Obligations.ImmediateSkipsCompareARegister
  exact fun x nn s => ⟨wordX8_eq_fieldsXNN 0x3 x nn, wordX8_eq_fieldsXNN 0x4 x nn,
    completes_of_skipCondition rfl, completes_of_skipCondition rfl⟩

/-- Settles O29: a low nibble other than 0 makes the word illegal, and the block halts as for any illegal word. -/
theorem registerSkipsCompareTwoRegisters : Obligations.RegisterSkipsCompareTwoRegisters := by
  unfold Obligations.RegisterSkipsCompareTwoRegisters
  intro x y s
  refine ⟨word4_eq_fieldsXYN_zero 0x5 x y 0, word4_eq_fieldsXYN_zero 0x9 x y 0, ?_,
    completes_of_skipCondition rfl, completes_of_skipCondition rfl⟩
  intro n w hn hw hrun hskip hf
  refine step_of_fetch_illegal hrun hskip hf ?_
  rcases hw with rfl | rfl
  · exact word4_eq_fieldsXYN 0x5 x y n ▸ wellFormedWord_word4_eq_false (.inl rfl) hn _ _
  · exact word4_eq_fieldsXYN 0x9 x y n ▸ wellFormedWord_word4_eq_false (.inr rfl) hn _ _

/-- Settles O30: both instructions have the one condition "key down", and one check of the key number. -/
theorem bothKeySkipsTestKeyDown : Obligations.BothKeySkipsTestKeyDown := by
  unfold Obligations.BothKeySkipsTestKeyDown
  intro x s
  refine ⟨wordX8_eq_fieldsX 0xE x 0x9E, wordX8_eq_fieldsX 0xE x 0xA1, fun hk => ⟨?_, ?_⟩, fun hk => ⟨?_, ?_⟩⟩
  · exact completes_of_skipCondition (skipCondition_key (.inl rfl) hk)
  · exact completes_of_skipCondition (skipCondition_key (.inr rfl) hk)
  · exact halts_of_tryAdvance rfl (State.skipIfDown_error hk)
  · exact halts_of_tryAdvance rfl (State.skipIfDown_error hk)

end Sys2Proof.Machine
end

section
/-! SUPPORT. The data instructions (spec/43_data_alu.md R170 to R186, spec/45_misc.md R225): the results and the flags as the
statements count them, and the order in which an instruction writes V[X] and VF. -/

namespace Sys2Proof.Machine
variable {s : State} {i : Instr} {x : RegIx}

/-! ## Results and flags as numbers -/

theorem add_eq_ofNat_mod {w : Nat} (a b : BitVec w) : a + b = BitVec.ofNat w ((a.toNat + b.toNat) % 2 ^ w) :=
  BitVec.eq_of_toNat_eq (by simp)

theorem sub_eq_ofNat_mod {w : Nat} (a b : BitVec w) :
    a - b = BitVec.ofNat w ((a.toNat + 2 ^ w - b.toNat) % 2 ^ w) := by
  have hb := b.isLt
  apply BitVec.eq_of_toNat_eq
  rw [BitVec.toNat_sub, BitVec.toNat_ofNat, Nat.mod_mod]
  congr 1
  omega

theorem shiftRight_one_eq_ofNat (a : Byte) : a >>> 1 = BitVec.ofNat 8 (a.toNat / 2) := by
  apply BitVec.eq_of_toNat_eq
  rw [BitVec.toNat_ushiftRight, Nat.shiftRight_eq_div_pow, BitVec.toNat_ofNat]
  omega

theorem shiftLeft_one_eq_ofNat (a : Byte) : a <<< 1 = BitVec.ofNat 8 (2 * a.toNat % 256) := by
  apply BitVec.eq_of_toNat_eq
  simp [Nat.shiftLeft_eq, Nat.mul_comm]

theorem flagByte_decide (c : Prop) [Decidable c] : flagByte (decide c) = if c then 1 else 0 := by
  by_cases h : c <;> simp [flagByte, h]

theorem shrFlag_eq_ofNat (a : Byte) : shrFlag a = BitVec.ofNat 8 (a.toNat % 2) := by
  apply BitVec.eq_of_toNat_eq
  change a.toNat &&& 1 = _
  rw [Nat.and_one_is_mod, BitVec.toNat_ofNat]
  omega

theorem shlFlag_eq_ofNat (a : Byte) : shlFlag a = BitVec.ofNat 8 (a.toNat / 128) := by
  apply BitVec.eq_of_toNat_eq
  change a.toNat >>> 7 &&& 1 = _
  rw [Nat.and_one_is_mod, Nat.shiftRight_eq_div_pow, BitVec.toNat_ofNat]
  omega

/-- SHR of its own flag: bit 0 alone is shifted out (R180). -/
theorem shrFlag_shiftRight_one (a : Byte) : shrFlag a >>> 1 = 0 := by
  rw [shiftRight_one_eq_ofNat, shrFlag_eq_ofNat, BitVec.toNat_ofNat]
  have h : a.toNat % 2 % 2 ^ 8 / 2 = 0 := by omega
  rw [h]
  rfl

/-- SHL of its own flag: bit 7 ends as bit 1 (R182). -/
theorem shlFlag_shiftLeft_one (a : Byte) : shlFlag a <<< 1 = if a.toNat ≥ 128 then 2 else 0 := by
  have ha := a.isLt
  rw [shiftLeft_one_eq_ofNat, shlFlag_eq_ofNat, BitVec.toNat_ofNat]
  split
  · have h : a.toNat / 128 = 1 := by omega
    rw [h]
    rfl
  · have h : a.toNat / 128 = 0 := by omega
    rw [h]
    rfl

/-! ## The order of the writes -/

theorem State.setReg_setReg_same (a b : Byte) : (s.setReg x a).setReg x b = s.setReg x b := by
  simp [State.setReg]

/-- For X other than F the flag's write does not touch the operand. -/
theorem State.shiftRight_of_ne_vf (h : x ≠ vf) :
    s.shiftRight x = (s.setReg vf (shrFlag (s.reg x))).setReg x (s.reg x >>> 1) := by
  rw [State.shiftRight, s.reg_setReg_of_ne h]

theorem State.shiftLeft_of_ne_vf (h : x ≠ vf) :
    s.shiftLeft x = (s.setReg vf (shlFlag (s.reg x))).setReg x (s.reg x <<< 1) := by
  rw [State.shiftLeft, s.reg_setReg_of_ne h]

/-- For X = F the flag just written is the operand (R184). -/
theorem State.shiftRight_vf : s.shiftRight vf = s.setReg vf 0 := by
  rw [State.shiftRight, State.reg_setReg_same, State.setReg_setReg_same, shrFlag_shiftRight_one]

theorem State.shiftLeft_vf : s.shiftLeft vf = s.setReg vf (if (s.reg vf).toNat ≥ 128 then 2 else 0) := by
  rw [State.shiftLeft, State.reg_setReg_same, State.setReg_setReg_same, shlFlag_shiftLeft_one]

/-! ## How a data instruction ends -/

/-- An instruction that writes V[X] and advances. -/
theorem completes_of_setReg {b c : Byte} (h : exec i s = .next (advance (some (encode i)) s (s.setReg x b)))
    (hb : b = c) : CompletesOrFaultsOnAdvance i s { s with v := s.v.set x.val c } :=
  hb ▸ completes_of_advance h rfl

/-- An instruction that writes V[X], then VF, and advances. -/
theorem completes_of_setResultThenFlag {result flag b f : Byte}
    (h : exec i s = .next (advance (some (encode i)) s (s.setResultThenFlag x result flag)))
    (hb : result = b) (hf : flag = f) :
    CompletesOrFaultsOnAdvance i s { s with v := (s.v.set x.val b).set 15 f } :=
  hb ▸ hf ▸ completes_of_advance h rfl

/-- An instruction that writes I and advances. -/
theorem completes_of_setI {w w' : Word} (h : exec i s = .next (advance (some (encode i)) s (s.setI w)))
    (hw : w = w') : CompletesOrFaultsOnAdvance i s { s with i := w' } :=
  hw ▸ completes_of_advance h rfl

section
variable (y : RegIx)

theorem shr_completes_of_ne_vf (h : x ≠ vf) : CompletesOrFaultsOnAdvance (.shr x y) s
    { s with
      v := (s.v.set 15 (BitVec.ofNat 8 ((s.reg x).toNat % 2))).set x.val
        (BitVec.ofNat 8 ((s.reg x).toNat / 2)) } := by
  have he : exec (.shr x y) s = .next (advance (some (encode (.shr x y))) s (s.shiftRight x)) := rfl
  rw [State.shiftRight_of_ne_vf h, shrFlag_eq_ofNat, shiftRight_one_eq_ofNat] at he
  exact completes_of_advance he rfl

theorem shl_completes_of_ne_vf (h : x ≠ vf) : CompletesOrFaultsOnAdvance (.shl x y) s
    { s with
      v := (s.v.set 15 (BitVec.ofNat 8 ((s.reg x).toNat / 128))).set x.val
        (BitVec.ofNat 8 (2 * (s.reg x).toNat % 256)) } := by
  have he : exec (.shl x y) s = .next (advance (some (encode (.shl x y))) s (s.shiftLeft x)) := rfl
  rw [State.shiftLeft_of_ne_vf h, shlFlag_eq_ofNat, shiftLeft_one_eq_ofNat] at he
  exact completes_of_advance he rfl

theorem exec_shr_vf : exec (.shr vf y) s = .next (advance (some (encode (.shr vf y))) s (s.setReg vf 0)) :=
  State.shiftRight_vf ▸ rfl

theorem exec_shl_vf : exec (.shl vf y) s =
    .next (advance (some (encode (.shl vf y))) s (s.setReg vf (if (s.reg vf).toNat ≥ 128 then 2 else 0))) :=
  State.shiftLeft_vf ▸ rfl

end

/-! ## The statements -/

/-- Settles O31: each writes V[X] alone. -/
theorem immediateLoadAndAdd : Obligations.ImmediateLoadAndAdd := by
  unfold Obligations.ImmediateLoadAndAdd
  exact fun x nn s => ⟨wordX8_eq_fieldsXNN 0x6 x nn, wordX8_eq_fieldsXNN 0x7 x nn,
    completes_of_setReg rfl rfl, completes_of_setReg rfl (add_eq_ofNat_mod (s.reg x) nn)⟩

/-- Settles O32: each writes V[X] alone. -/
theorem assignAndLogicWriteOnlyVx : Obligations.AssignAndLogicWriteOnlyVx := by
  unfold Obligations.AssignAndLogicWriteOnlyVx
  exact fun x y s => ⟨word4_eq_fieldsXYN_zero 0x8 x y 0, word4_eq_fieldsXYN_zero 0x8 x y 1,
    word4_eq_fieldsXYN_zero 0x8 x y 2, word4_eq_fieldsXYN_zero 0x8 x y 3,
    completes_of_setReg rfl rfl, completes_of_setReg rfl rfl, completes_of_setReg rfl rfl, completes_of_setReg rfl rfl⟩

/-- Settles O33: the sum to V[X], then the carry to VF. -/
theorem addSetsTheCarryLast : Obligations.AddSetsTheCarryLast := by
  unfold Obligations.AddSetsTheCarryLast
  rintro x y s _ _ rfl rfl
  exact ⟨word4_eq_fieldsXYN_zero 0x8 x y 4,
    completes_of_setResultThenFlag rfl (add_eq_ofNat_mod (s.reg x) (s.reg y)) (flagByte_decide _)⟩

/-- Settles O34: the difference to V[X], then the strict comparison to VF. -/
theorem subtractionsSetTheNotBorrowLast : Obligations.SubtractionsSetTheNotBorrowLast := by
  unfold Obligations.SubtractionsSetTheNotBorrowLast
  rintro x y s _ _ rfl rfl
  exact ⟨word4_eq_fieldsXYN_zero 0x8 x y 5, word4_eq_fieldsXYN_zero 0x8 x y 7,
    completes_of_setResultThenFlag rfl (sub_eq_ofNat_mod (s.reg x) (s.reg y)) (flagByte_decide _),
    completes_of_setResultThenFlag rfl (sub_eq_ofNat_mod (s.reg y) (s.reg x)) (flagByte_decide _)⟩

/-- Settles O35: the flag's write leaves the operand unless X = F, where the flag is what is shifted. -/
theorem shiftsWriteTheFlagFirst : Obligations.ShiftsWriteTheFlagFirst := by
  unfold Obligations.ShiftsWriteTheFlagFirst
  rintro x y s _ rfl
  refine ⟨word4_eq_fieldsXYN_zero 0x8 x y 6, word4_eq_fieldsXYN_zero 0x8 x y 0xE, fun hx => ?_, ?_⟩
  · exact ⟨shr_completes_of_ne_vf y hx, shl_completes_of_ne_vf y hx⟩
  · rintro rfl
    exact ⟨completes_of_setReg (exec_shr_vf y) rfl, completes_of_setReg (exec_shl_vf y) rfl⟩

/-- Settles O36: each writes I alone, at its full 16 bits. -/
theorem addressRegisterLoadAndAdd : Obligations.AddressRegisterLoadAndAdd := by
  unfold Obligations.AddressRegisterLoadAndAdd
  refine fun s => ⟨fun nnn => ⟨word12_eq_fieldsNNN 0xA nnn, ?_⟩, fun x => ⟨wordX8_eq_fieldsX 0xF x 0x1E, ?_⟩⟩
  · exact completes_of_setI rfl (BitVec.ofNat_toNat 16 nnn).symm
  · have hv : ((s.reg x).setWidth 16).toNat = (s.reg x).toNat := BitVec.toNat_setWidth_of_le (by decide)
    exact completes_of_setI rfl (hv ▸ add_eq_ofNat_mod s.i ((s.reg x).setWidth 16))

/-- Settles O37: V[X] is written after the draw is counted. -/
theorem rndMasksAFreeByte : Obligations.RndMasksAFreeByte := by
  unfold Obligations.RndMasksAFreeByte
  exact fun x nn s => ⟨wordX8_eq_fieldsXNN 0xC x nn,
    completes_of_advance (s1 := s.setRandom x nn (Config.rngByte s.draws)) rfl rfl⟩

end Sys2Proof.Machine
end

section
/-! SUPPORT. The draws (spec/44_draw.md R200 to R207): the rows of a sprite in main memory, the draw of no row, and the pixels
under a sprite that is drawn twice. -/

namespace Sys2Proof.Machine
variable {s : State} {x y : RegIx} {n : Fin 16} {rows : List Byte}

/-! ## The rows of a draw -/

/-- From BASE on the rows come from main memory: glyph space lies below BASE (R201). -/
theorem spriteRows_of_base_le (font : Font) (m : Memory) {i h : Nat} (h0 : h ≠ 0) (hb : Config.base ≤ i) :
    spriteRows Config.glyphBase font m i h = readBytes m i h := by
  have hg := glyphBase_bound
  exact spriteRows_memory _ _ _ _ _ h0 (by omega) (by omega)

theorem spriteRows_length {g : Nat} {font : Font} {m : Memory} {i h : Nat} (hr : spriteRows g font m i h = .ok rows) :
    rows.length = h := by
  rcases spriteRows_cases g font m i h with ⟨rows', e, hl⟩ | ⟨r, e, _⟩
  · cases hr.symm.trans e
    exact hl
  · cases hr.symm.trans e

/-- A sprite is never higher than the canvas. -/
theorem spriteRows_length_le {g : Nat} {font : Font} {m : Memory} {i : Nat}
    (hr : spriteRows g font m i n.val = .ok rows) : rows.length ≤ 32 := by
  rw [spriteRows_length hr]
  omega

/-- A draw whose rows cannot be read halts the block, with no display call. -/
theorem drw_halts {k : FaultKind} {f : FaultInfo}
    (hr : spriteRows Config.glyphBase Config.font s.mem s.i.toNat n.val = .error ⟨k, f⟩) :
    exec (.drw x y n) s = .next (haltedAt s (.drw x y n) k f) :=
  halts_of_tryAdvance rfl (by rw [State.drawWith, State.iAddr, hr])

/-- A draw of no row leaves the display and clears VF (R204). -/
theorem State.drawWith_zero (g : Nat) (font : Font) : s.drawWith g font x y 0 = .ok (s.setReg vf 0) := by
  rw [State.drawWith, Fin.val_zero, spriteRows_zero]
  rfl

/-! ## The pixels under a sprite -/

/-- Row `r`, column `c` of a sprite lies at its top left corner moved by `(c, r)` modulo the canvas (R202, R278). -/
theorem spriteCovers_of_lt (x y : Nat) {r c : Nat} (hl : rows.length ≤ 32) (hr : r < rows.length) (hc : c < 8) :
    spriteCovers rows x y ((x + c) % 64) ((y + r) % 32) = rows[r].getLsbD (7 - c) := by
  have hrow : ((y + r) % 32 + 32 - y % 32) % 32 = r := by omega
  have hcol : ((x + c) % 64 + 64 - x % 64) % 64 = c := by omega
  simp [spriteCovers, hrow, hcol, hr, hc]

/-- A sprite with a set bit covers a pixel. -/
theorem exists_spriteCovers (x y : Nat) (hl : rows.length ≤ 32) (h : ∃ r ∈ rows, r ≠ 0) :
    ∃ px < 64, ∃ py < 32, spriteCovers rows x y px py = true := by
  obtain ⟨b, hb, hne⟩ := h
  obtain ⟨r, hr, rfl⟩ := List.getElem_of_mem hb
  obtain ⟨k, hk, hbit⟩ : ∃ k < 8, rows[r].getLsbD k = true := by
    by_contra hno
    exact hne (BitVec.eq_of_getLsbD_eq fun k hk => by simpa using fun hbit => hno ⟨k, hk, hbit⟩)
  refine ⟨_, Nat.mod_lt _ (by decide), _, Nat.mod_lt _ (by decide),
    (spriteCovers_of_lt x y hl hr (c := 7 - k) (by omega)).trans ?_⟩
  rwa [Nat.sub_sub_self (by omega)]

/-- A sprite with no set bit covers no pixel. -/
theorem spriteCovers_of_zero (h : ∀ r ∈ rows, r = 0) (x y px py : Nat) : spriteCovers rows x y px py = false := by
  have hrow : ∀ k, rows.getD k 0 = 0 := fun k => by
    by_cases hk : k < rows.length
    · rw [List.getD_eq_getElem _ _ hk]
      exact h _ (List.getElem_mem hk)
    · exact List.getD_eq_default _ _ (by omega)
  simp only [spriteCovers, hrow]
  simp

/-! ## A draw that completes -/

/-- A pixel under the sprite is set. -/
def Collides (fb : Framebuffer) (rows : List Byte) (x y : Nat) : Prop :=
  ∃ px < 64, ∃ py < 32, spriteCovers rows x y px py = true ∧ pixel fb px py = true

/-- What a completed draw of `rows` at `(x, y)` has made of `s`, as far as a draw after it depends on it. -/
structure DrawnFrom (s : State) (rows : List Byte) (x y : Nat) (t : State) : Prop where
  mem : t.mem = s.mem
  i : t.i = s.i
  pc : t.pc = s.pc + 2
  pixels : ∀ px < 64, ∀ py < 32, pixel t.fb px py = (pixel s.fb px py ^^ spriteCovers rows x y px py)
  collision : Collides s.fb rows x y → t.reg 15 = 1
  noCollision : ¬ Collides s.fb rows x y → t.reg 15 = 0

theorem drw_completes (hr : spriteRows Config.glyphBase Config.font s.mem s.i.toNat n.val = .ok rows)
    (hadv : CanAdvance s) :
    ∃ t, exec (.drw x y n) s = .next t ∧ DrawnFrom s rows (s.reg x).toNat (s.reg y).toNat t := by
  obtain ⟨fb, c, hpix, hcol, hdone, -⟩ := drw_draws (x := x) (y := y) hr (spriteRows_length_le hr)
  have hvf := s.reg_setReg_same vf (if c then 1 else 0)
  exact ⟨_, hdone hadv, rfl, rfl, rfl, hpix, fun h => hvf.trans (if_pos (hcol.2 h)),
    fun h => hvf.trans (if_neg fun hc => h (hcol.1 hc))⟩

/-- The same sprite drawn twice at one place restores the display (R207). -/
theorem DrawnFrom.fb_eq_of_redraw {t u : State} {x y : Nat} (h : DrawnFrom s rows x y t) (h' : DrawnFrom t rows x y u) :
    u.fb = s.fb :=
  Framebuffer.ext_pixel fun px hpx py hpy => by
    rw [h'.pixels px hpx py hpy, h.pixels px hpx py hpy, Bool.xor_assoc, Bool.xor_self, Bool.xor_false]

/-- A sprite with a set bit, drawn where no pixel was set, collides with itself when drawn again. -/
theorem DrawnFrom.collides_again {t : State} {x y : Nat} (h : DrawnFrom s rows x y t) (hl : rows.length ≤ 32)
    (hset : ∃ r ∈ rows, r ≠ 0)
    (hunset : ∀ px < 64, ∀ py < 32, spriteCovers rows x y px py = true → pixel s.fb px py = false) :
    Collides t.fb rows x y := by
  obtain ⟨px, hpx, py, hpy, hcov⟩ := exists_spriteCovers x y hl hset
  refine ⟨px, hpx, py, hpy, hcov, ?_⟩
  rw [h.pixels px hpx py hpy, hunset px hpx py hpy hcov, hcov, Bool.false_xor]

theorem not_collides_of_unset {fb : Framebuffer} {x y : Nat}
    (h : ∀ px < 64, ∀ py < 32, spriteCovers rows x y px py = true → pixel fb px py = false) :
    ¬ Collides fb rows x y :=
  fun ⟨px, hpx, py, hpy, hcov, hpix⟩ => nomatch (h px hpx py hpy hcov).symm.trans hpix

theorem not_collides_of_zero (h : ∀ r ∈ rows, r = 0) (fb : Framebuffer) (x y : Nat) : ¬ Collides fb rows x y :=
  not_collides_of_unset fun px _ py _ hcov => nomatch (spriteCovers_of_zero h x y px py).symm.trans hcov

/-! ## The statements -/

/-- Settles O38: a height of 0 takes no row, whatever I and memory are. -/
theorem drawOfHeightZeroReadsNothing : Obligations.DrawOfHeightZeroReadsNothing := by
  unfold Obligations.DrawOfHeightZeroReadsNothing
  exact fun x y s => ⟨word4_eq_fieldsXYN 0xD x y 0, completes_of_tryAdvance rfl (State.drawWith_zero _ _) rfl⟩

/-- Settles O39: the rows are the bytes from I on; the first address outside the window and an I of the reserved low range
raise while they are read. -/
theorem drawFromMemory : Obligations.DrawFromMemory := by
  unfold Obligations.DrawFromMemory
  intro x y n s hn
  have hn0 : n.val ≠ 0 := Fin.val_ne_zero_iff.2 hn
  refine ⟨word4_eq_fieldsXYN 0xD x y n, fun hin => ?_, fun j hj hb hin hout => ?_, fun hlow hglyph => ?_⟩
  · have hb : Config.base ≤ s.i.toNat := (hin 0 (by omega)).1
    have hrows := (spriteRows_of_base_le Config.font s.mem hn0 hb).trans (readBytes_ok _ _ _ hin)
    exact drw_draws hrows (spriteRows_length_le hrows)
  · exact drw_halts ((spriteRows_of_base_le _ _ hn0 hb).trans (readBytes_error _ _ _ j hj hin hout))
  · exact drw_halts (spriteRows_low _ _ _ _ _ hn0 hglyph hlow)

/-- Settles O41: a pixel inverted twice is as before, and after a first draw over unset pixels every pixel the sprite covers is
set. -/
theorem drawingTwiceRestoresTheDisplay : Obligations.DrawingTwiceRestoresTheDisplay := by
  unfold Obligations.DrawingTwiceRestoresTheDisplay
  intro x y n s rows hrows hadv hadv'
  obtain ⟨t, ht, hdraw⟩ := drw_completes hrows hadv
  refine ⟨t, ht, fun hx hy => ?_⟩
  have hrows' : spriteRows Config.glyphBase Config.font t.mem t.i.toNat n.val = .ok rows := by
    rwa [hdraw.mem, hdraw.i]
  have hadvt : CanAdvance t := by
    rwa [CanAdvance, hdraw.pc, toNat_pc_add_two hadv]
  obtain ⟨u, hu, hdraw'⟩ := drw_completes (x := x) (y := y) hrows' hadvt
  rw [hx, hy] at hdraw'
  refine ⟨u, hu, hdraw.fb_eq_of_redraw hdraw', fun hset hunset => ⟨?_, ?_⟩, fun hzero => ⟨?_, ?_⟩⟩
  · exact hdraw.noCollision (not_collides_of_unset hunset)
  · exact hdraw'.collision (hdraw.collides_again (spriteRows_length_le hrows) hset hunset)
  · exact hdraw.noCollision (not_collides_of_zero hzero _ _ _)
  · exact hdraw'.noCollision (not_collides_of_zero hzero _ _ _)

end Sys2Proof.Machine
end


section
/-! SUPPORT. Family F's timers, glyph addresses, stores and loads (spec/45_misc_fx.md R221 to R229): each handler with the state
it leaves and the fault it raises. -/

namespace Sys2Proof.Machine
variable {s : State} {x : RegIx}

/-! ## Runs of addresses -/

/-- The window is one interval, so a run with both ends in it lies in it (R50). -/
theorem inWindow_of_le {a n k : Nat} (hfirst : InWindow a) (hlast : InWindow (a + n)) (hk : k ≤ n) : InWindow (a + k) :=
  ⟨hfirst.1.trans (Nat.le_add_right a k), (Nat.add_le_add_left hk a).trans_lt hlast.2⟩

/-- Glyph space lies below the window (R56). -/
theorem not_inWindow_glyphBase_add {d : Nat} (h : d ≤ 15) : ¬ InWindow (Config.glyphBase + d) := by
  have := glyphBase_bound
  omega

/-! ## LD F, VX -/

theorem State.pointAtGlyph_ok (g : Nat) (h : (s.reg x).toNat ≤ 15) :
    State.pointAtGlyph g s x = .ok (s.setI (BitVec.ofNat 16 (g + (s.reg x).toNat))) := by
  rw [State.pointAtGlyph, glyphAddress_ok g h]

theorem State.pointAtGlyph_error (g : Nat) (h : 15 < (s.reg x).toNat) :
    State.pointAtGlyph g s x = .error ⟨.glyphRange, .glyph (s.reg x).toNat 0⟩ := by
  rw [State.pointAtGlyph, glyphAddress_error g h]

/-! ## Stores and loads from the address I on -/

/-- The advance of I as a number (R228, R229). -/
theorem State.advanceI_eq (s : State) (x : RegIx) :
    s.advanceI x = s.setI (BitVec.ofNat 16 ((s.i.toNat + x.val + 1) % 0x10000)) := by
  have hx : (BitVec.ofNat 16 (x.val + 1)).toNat = x.val + 1 := Nat.mod_eq_of_lt (by omega)
  rw [State.advanceI, add_eq_ofNat_mod, hx]
  rfl

@[simp] theorem length_decimalDigits (d : Byte) : (decimalDigits d).length = 3 := rfl

/-- A store whose run lies in the window puts its bytes there in order and leaves every other byte. -/
theorem State.storeAtI_ok {bs : List Byte} (hm : s.mem.wf = true) (hin : ∀ k < bs.length, InWindow (s.i.toNat + k)) :
    ∃ m : Memory, s.storeAtI bs = .ok (s.setMem m) ∧
      (∀ k (h : k < bs.length), m.read (s.i.toNat + k) = bs[k]) ∧
      ∀ a, ¬ (s.i.toNat ≤ a ∧ a < s.i.toNat + bs.length) → m.read a = s.mem.read a := by
  obtain ⟨m, hw⟩ := writeBytes_ok bs s.mem s.i.toNat hin
  obtain ⟨-, hread⟩ := writeBytes_spec le_rfl hm hw
  refine ⟨m, by rw [State.storeAtI, State.iAddr, hw], fun k hk => ?_, fun a ha => (hread a).trans (dif_neg ha)⟩
  rw [hread, dif_pos (by omega)]
  simp only [Nat.add_sub_cancel_left]

theorem State.storeAtI_error {bs : List Byte} {j : Nat} (hj : j < bs.length) (hin : ∀ k < j, InWindow (s.i.toNat + k))
    (hout : ¬ InWindow (s.i.toNat + j)) : s.storeAtI bs = .error (invalidAddress (s.i.toNat + j)) := by
  rw [State.storeAtI, State.iAddr, writeBytes_error bs s.mem s.i.toNat j hj hin hout]

theorem State.storeRegsAtI_ok {m : Memory} (h : s.storeAtI (s.regsUpTo x) = .ok (s.setMem m)) :
    s.storeRegsAtI x = .ok ((s.setMem m).setI (BitVec.ofNat 16 ((s.i.toNat + x.val + 1) % 0x10000))) := by
  rw [State.storeRegsAtI, h]
  exact congrArg _ ((s.setMem m).advanceI_eq x)

theorem State.storeRegsAtI_error {r : Raised} (h : s.storeAtI (s.regsUpTo x) = .error r) :
    s.storeRegsAtI x = .error r := by
  rw [State.storeRegsAtI, h]

/-- A load whose run lies in the window puts its bytes into the registers in order and leaves every other register. -/
theorem State.loadRegsAtI_ok (hin : ∀ k < x.val + 1, InWindow (s.i.toNat + k)) :
    ∃ v : Vector Byte 16,
      s.loadRegsAtI x = .ok ((s.setRegs v).setI (BitVec.ofNat 16 ((s.i.toNat + x.val + 1) % 0x10000))) ∧
      ∀ k : RegIx, v.get k = if k.val ≤ x.val then s.mem.read (s.i.toNat + k.val) else s.reg k := by
  refine ⟨putRegs s.v 0 ((List.range (x.val + 1)).map fun k => s.mem.read (s.i.toNat + k)), ?_, fun k => ?_⟩
  · rw [State.loadRegsAtI, State.iAddr, readBytes_ok s.mem _ _ hin]
    exact congrArg _ (State.advanceI_eq _ x)
  · rw [get_putRegs]
    simp [State.reg]

theorem State.loadRegsAtI_error {j : Nat} (hj : j < x.val + 1) (hin : ∀ k < j, InWindow (s.i.toNat + k))
    (hout : ¬ InWindow (s.i.toNat + j)) : s.loadRegsAtI x = .error (invalidAddress (s.i.toNat + j)) := by
  rw [State.loadRegsAtI, State.iAddr, readBytes_error s.mem _ _ j hj hin hout]

/-! ## The statements -/

/-- Settles O46: the three digits are one run of stores from I on. -/
theorem decimalDigitsAreStoredInOrder : Obligations.DecimalDigitsAreStoredInOrder := by
  unfold Obligations.DecimalDigitsAreStoredInOrder
  rintro x s _ hm rfl
  refine ⟨wordX8_eq_fieldsX 0xF x 0x33, fun hfirst hlast => ?_, fun j hj hin hout => ?_⟩
  · obtain ⟨m, hstore, hread, hframe⟩ := State.storeAtI_ok (bs := decimalDigits (s.reg x)) hm
      fun k hk => inWindow_of_le hfirst hlast (Nat.le_of_lt_succ hk)
    exact ⟨m, hread 0 (by simp), hread 1 (by simp), hread 2 (by simp), hframe, completes_of_tryAdvance rfl hstore rfl⟩
  · exact halts_of_tryAdvance rfl (State.storeAtI_error hj hin hout)

/-- Settles O47: V[0] to V[X] are one run of X + 1 stores from I on. -/
theorem registersAreStoredInOrder : Obligations.RegistersAreStoredInOrder := by
  unfold Obligations.RegistersAreStoredInOrder
  intro x s hm
  have hlen := s.regsUpTo_length x
  refine ⟨wordX8_eq_fieldsX 0xF x 0x55, fun hfirst hlast => ?_, fun j hj hin hout => ?_⟩
  · obtain ⟨m, hstore, hread, hframe⟩ := State.storeAtI_ok (bs := s.regsUpTo x) hm
      fun k hk => inWindow_of_le hfirst hlast (by omega)
    rw [hlen] at hframe
    exact ⟨m, fun k hk => (hread k.val (by omega)).trans (s.getElem_regsUpTo x k hk), hframe,
      completes_of_tryAdvance rfl (State.storeRegsAtI_ok hstore) rfl⟩
  · exact halts_of_tryAdvance rfl (State.storeRegsAtI_error (State.storeAtI_error (by omega) hin hout))

/-- Settles O48: V[0] to V[X] receive one run of X + 1 bytes from I on. -/
theorem registersAreLoadedInOrder : Obligations.RegistersAreLoadedInOrder := by
  unfold Obligations.RegistersAreLoadedInOrder
  intro x s
  refine ⟨wordX8_eq_fieldsX 0xF x 0x65, fun hfirst hlast => ?_, fun j hj hin hout => ?_⟩
  · obtain ⟨v, hload, hregs⟩ := State.loadRegsAtI_ok fun k hk => inWindow_of_le hfirst hlast (Nat.le_of_lt_succ hk)
    exact ⟨v, hregs, completes_of_tryAdvance rfl hload rfl⟩
  · exact halts_of_tryAdvance rfl (State.loadRegsAtI_error (Nat.lt_succ_of_le hj) hin hout)

/-- Settles O42: each writes V[X] or one timer alone. -/
theorem timersAreCopiedToAndFromRegisters : Obligations.TimersAreCopiedToAndFromRegisters := by
  unfold Obligations.TimersAreCopiedToAndFromRegisters
  exact fun x s => ⟨wordX8_eq_fieldsX 0xF x 0x07, wordX8_eq_fieldsX 0xF x 0x15, wordX8_eq_fieldsX 0xF x 0x18,
    completes_of_setReg rfl rfl, completes_of_advance (s1 := s.setDt (s.reg x)) rfl rfl,
    completes_of_advance (s1 := s.setSt (s.reg x)) rfl rfl⟩

/-- Settles O45: a hexadecimal digit's address lies in glyph space, below the window, and a larger value raises. -/
theorem pointingAtAGlyph : Obligations.PointingAtAGlyph := by
  unfold Obligations.PointingAtAGlyph
  refine fun x s => ⟨wordX8_eq_fieldsX 0xF x 0x29, fun h => ⟨not_inWindow_glyphBase_add h, ?_⟩, fun h => ?_⟩
  · exact completes_of_tryAdvance rfl (State.pointAtGlyph_ok _ h) rfl
  · exact halts_of_tryAdvance rfl (State.pointAtGlyph_error _ h)

end Sys2Proof.Machine
end

section
/-! SUPPORT. A fault of phase (d) is precise (spec/60_exceptions.md R252 to R254): an instruction raises from the state at
the start of the phase, and of what its handler did only the display and the draws stay. -/

namespace Sys2Proof.Machine
variable {i : Instr} {s t : State}

/-! ## How phase (d) ends -/

/-- The ends of phase (d) when `i` is executed from a running block `s`: a check that failed before any external contract was
called, a checked write of the PC by a handler that left the block running, or the key wait. -/
inductive PhaseEnd (i : Instr) (s : State) : State → Prop where
  | raise (r : Raised) : PhaseEnd i s (raise (some (encode i)) s s r)
  | writePc (s1 : State) (a : Nat) : s1.run = .running → PhaseEnd i s (writePc (some (encode i)) s s1 a)
  | wait (x : RegIx) : PhaseEnd i s (s.setRun (.waitingKey x))

namespace PhaseEnd

/-- Of `RaisesOnly`, only that a handler that does not raise keeps the run state is used. -/
theorem tryAdvance {ks : List FaultKind} {r : Except Raised State} (hrun : s.run = .running) (h : RaisesOnly ks s r) :
    PhaseEnd i s (tryAdvance (some (encode i)) s r) := by
  cases r with
  | error r => exact .raise r
  | ok s1 => exact .writePc s1 _ (Eq.trans h hrun)

theorem callState {nnn : Imm12} (hrun : s.run = .running) : PhaseEnd (.call nnn) s (callState nnn s) := by
  have hpush := RaisesOnly.push s (List.mem_singleton_self FaultKind.stackOverflow) s.pc
  unfold Machine.callState
  cases h : s.push s.pc with
  | error r => exact .raise r
  | ok s1 => rw [h] at hpush; exact .writePc s1 _ (Eq.trans hpush hrun)

theorem of_exec (hrun : s.run = .running) (h : exec i s = .next t) : PhaseEnd i s t := by
  cases i with
  | cls | ldImm _ _ | addImm _ _ | rnd _ _ | ldReg _ _ | orReg _ _ | andReg _ _ | xorReg _ _ | addReg _ _ | subReg _ _
  | subnReg _ _ | shr _ _ | shl _ _ | ldI _ | addI _ | ldVxDt _ | ldDtVx _ | ldStVx _ | seImm _ _ | sneImm _ _
  | seReg _ _ | sneReg _ _ | jp _ | jpV0 _ => cases h; exact .writePc _ _ hrun
  | call _ => cases h; exact callState hrun
  | ret => cases h; exact tryAdvance hrun (.popPc s (.head []))
  | skp x | sknp x => cases h; exact tryAdvance hrun (.skipIfDown s x (.head []))
  | drw x y n => cases h; exact tryAdvance hrun (.drawWith s x (.head _) (.tail _ (.head [])) _ _ y n)
  | ldF x => cases h; exact tryAdvance hrun (.pointAtGlyph s x (.head []) _)
  | ldB x => cases h; exact tryAdvance hrun (.storeAtI s (.head []) _)
  | storeRegs x => cases h; exact tryAdvance hrun (.storeRegsAtI s x (.head []))
  | loadRegs x => cases h; exact tryAdvance hrun (.loadRegsAtI s x (.head []))
  | ldVxK x => cases h; exact .wait x

/-- Where phase (d) ends in a halted block, a fault was raised from the state at its start. -/
theorem raised_of_halted {e : ErrRecord} (h : PhaseEnd i s t) (he : t.run = .halted e) :
    ∃ s1 r, t = Machine.raise (some (encode i)) s s1 r := by
  cases h with
  | raise r => exact ⟨s, r, rfl⟩
  | writePc s1 a hrun =>
    rcases writePc_cases (some (encode i)) s s1 a with ⟨_, hw⟩ | ⟨_, hw⟩
    · rw [hw, State.run_setPc, hrun] at he
      cases he
    · exact ⟨s1, _, hw⟩
  | wait x => cases he

end PhaseEnd

/-! ## What an instruction asks of the external contracts -/

theorem InstrEffect.of_fb_ne (h : InstrEffect i s t) (hne : t.fb ≠ s.fb) : i = .cls ∨ ∃ x y n, i = .drw x y n := by
  by_contra! hno
  exact hne (h.fb hno.1 hno.2)

theorem InstrEffect.of_draws_ne (h : InstrEffect i s t) (hne : t.draws ≠ s.draws) : ∃ x nn, i = .rnd x nn := by
  by_contra! hno
  exact hne (h.draws hno)

/-! ## The statements -/

/-- Settles O21: the halted state is one that `raise` left, and the clauses of `InstrEffect` on the pixels and the draws name
the instructions that may have changed these. -/
theorem faultsArePrecise : Obligations.FaultsArePrecise := by
  unfold Obligations.FaultsArePrecise
  intro i s t e hrun h he
  have heff := InstrEffect.of_exec h
  obtain ⟨s1, r, rfl⟩ := (PhaseEnd.of_exec hrun h).raised_of_halted he
  cases he
  exact ⟨rfl, rfl, rfl, heff.of_fb_ne, heff.of_draws_ne⟩

/-- Settles O22: `exec_haltsOnlyWith`, a case analysis over the instructions. -/
theorem instructionsRaiseOnlyTheirKinds : Obligations.InstructionsRaiseOnlyTheirKinds := by
  unfold Obligations.InstructionsRaiseOnlyTheirKinds
  exact fun _ _ _ e hrun h he => exec_haltsOnlyWith hrun h e he

end Sys2Proof.Machine
end

section
/-! SUPPORT. The timer phase over time (spec/60_exceptions.md R270 to R273): timer phases one after the other count the
ticks of their times' sum. -/

namespace Sys2Proof.Machine
variable {s : State}

/-! ## Ticks of a sum -/

/-- The ticks of `q` and then those of what it left over, with the time `d` added, are the ticks of `q + d`. -/
theorem ticksIn_add {q d : Rat} (hq : 0 ≤ q) (hd : 0 ≤ d) :
    ticksIn (q + d) = ticksIn q + ticksIn (q - (ticksIn q : Rat) * Config.tick + d) := by
  have hrest : 0 ≤ q - (ticksIn q : Rat) * Config.tick + d := add_nonneg (sub_nonneg.2 (ticksIn_le hq)) hd
  have hle := ticksIn_le hrest
  have hlt := lt_ticksIn_succ (q - (ticksIn q : Rat) * Config.tick + d)
  apply ticksIn_eq <;> push_cast <;> linarith

/-! ## Timer phases one after the other -/

theorem State.timersAdvance_zero (h0 : 0 ≤ s.acc) (h1 : s.acc < Config.tick) : s.timersAdvance 0 = s := by
  simp [State.timersAdvance, ticksIn_of_lt h0 h1, timerAfter_zero]

theorem State.timersAdvance_timersAdvance {d e : Rat} (hd : 0 ≤ s.acc + d) (he : 0 ≤ e) :
    (s.timersAdvance d).timersAdvance e = s.timersAdvance (d + e) := by
  have hticks := ticksIn_add hd he
  rw [add_assoc] at hticks
  simp only [State.timersAdvance, timerAfter_add, hticks, State.mk.injEq, true_and, and_true]
  push_cast
  ring

/-- A stretch of timer phases does what one timer phase does with the whole time. -/
theorem State.foldl_timersAdvance : ∀ {deltas : List Rat} {s : State}, 0 ≤ s.acc → s.acc < Config.tick →
    (∀ d ∈ deltas, 0 ≤ d) → deltas.foldl State.timersAdvance s = s.timersAdvance deltas.sum
  | [], _, h0, h1, _ => (State.timersAdvance_zero h0 h1).symm
  | d :: ds, s, h0, h1, hds => by
    obtain ⟨hd, hds⟩ := List.forall_mem_cons.1 hds
    have hacc := timersAdvance_acc s (add_nonneg h0 hd)
    rw [List.foldl_cons, State.foldl_timersAdvance hacc.1 hacc.2 hds,
      State.timersAdvance_timersAdvance (add_nonneg h0 hd) (List.sum_nonneg hds), List.sum_cons]

/-! ## The statements -/

/-- Settles O49: the ticks are those of the accumulator and the time elapsed together. -/
theorem timerPhaseTurnsTimeIntoTicks : Obligations.TimerPhaseTurnsTimeIntoTicks := by
  unfold Obligations.TimerPhaseTurnsTimeIntoTicks
  intro s hacc hblocked
  obtain ⟨h0, h1⟩ := timersAdvance_acc s (add_nonneg hacc (s.elapsed_nonneg hblocked))
  rw [← State.acc_beforePhaseD] at h0 h1
  refine ⟨ticksIn (s.acc + s.elapsed), ?_, h0, h1, ?_, ?_⟩
  · rw [State.acc_beforePhaseD, State.acc_timersAdvance]
    exact (add_sub_cancel _ (s.acc + s.elapsed)).symm
  · rw [State.dt_beforePhaseD, timerAfter_toNat]
  · rw [State.st_beforePhaseD, timerAfter_toNat]

/-- Settles O50: the stretch is one timer phase with the whole time, whose tick count is the one that fits. -/
theorem timersOverAStretchOfPhases : Obligations.TimersOverAStretchOfPhases := by
  unfold Obligations.TimersOverAStretchOfPhases
  intro s deltas ticks h0 h1 hds hle hlt
  have hticks : ticksIn (s.acc + deltas.sum) = ticks := ticksIn_eq hle hlt
  rw [State.foldl_timersAdvance h0 h1 hds, ← hticks]
  exact ⟨timerAfter_toNat _ _, timerAfter_toNat _ _, rfl⟩

end Sys2Proof.Machine
end

section
/-! SUPPORT. What the loop itself does to the timers, the display, the canvas size and the start mark
(spec/40_interpreter_loop.md R100, spec/60_exceptions.md R271, R276, R277, spec/70_reset_and_hazards.md R292), boot, and the
block's outputs. -/

namespace Sys2Proof.Machine
variable {s t : State}

/-! ## Steps that execute no instruction -/

/-- What a key wait, and an iteration's phase (d) that executes no instruction, leave as it is: the timers, the canvas size and
the start mark. -/
structure LoopFieldsKept (s t : State) : Prop where
  dt : t.dt = s.dt
  st : t.st = s.st
  extents : t.extents = s.extents
  started : t.started = s.started

namespace LoopFieldsKept
variable {s1 : State}

theorem raise (s s1 : State) (op : Option Word) (r : Raised) : LoopFieldsKept s (Machine.raise op s s1 r) :=
  ⟨rfl, rfl, rfl, rfl⟩

theorem advance (h : LoopFieldsKept s s1) (op : Option Word) : LoopFieldsKept s (Machine.advance op s s1) := by
  rcases advance_cases op s s1 with ⟨_, e⟩ | ⟨_, e⟩ <;> rw [e]
  · exact { h with }
  · exact raise s s1 op _

theorem consumeSkip (s : State) : LoopFieldsKept s (Machine.consumeSkip s) :=
  advance (s := s) (s1 := s.decSkip) ⟨rfl, rfl, rfl, rfl⟩ none

theorem waitStep (x : RegIx) (s : State) : LoopFieldsKept s (Machine.waitStep x s) := by
  rcases waitStep_cases x s with ⟨_, e⟩ | ⟨k, _, e⟩ <;> rw [e]
  · exact ⟨rfl, rfl, rfl, rfl⟩
  · have hresume : LoopFieldsKept s.passWait.nextDraw (Machine.resumeKey x k s.passWait.nextDraw) :=
      advance (s := s.passWait.nextDraw)
        (s1 := (s.passWait.nextDraw.setReg x (BitVec.ofNat 8 k.val)).setRun .running) ⟨rfl, rfl, rfl, rfl⟩ _
    exact { hresume with }

end LoopFieldsKept

/-- Everything a step can do to the timers, the canvas size and the start mark: nothing in a key wait, in an iteration what
phases (a) to (c) do, and after it at most what the instruction executed does. -/
theorem step_loopFields_cases (h : step s = .next t) :
    (∃ x, s.run = .waitingKey x ∧ LoopFieldsKept s t) ∨
    (s.run = .running ∧ LoopFieldsKept s.beforePhaseD t) ∨
    (s.run = .running ∧ s.skip = 0 ∧ ∃ i, fetch s = .ok (encode i) ∧ InstrEffect i s.beforePhaseD t) := by
  rcases step_next_cases h with ⟨hrun, hph⟩ | ⟨x, hrun, rfl⟩
  · rcases phaseD_cases s.beforePhaseD with ⟨_, e⟩ | ⟨_, r, _, e⟩ | ⟨_, w, _, _, _, e⟩ | ⟨hskip, w, i, hf, hd, e⟩ <;>
      rw [e] at hph
    · cases hph; exact .inr (.inl ⟨hrun, .consumeSkip _⟩)
    · cases hph; exact .inr (.inl ⟨hrun, .raise _ _ none r⟩)
    · cases hph; exact .inr (.inl ⟨hrun, .raise _ _ (some w) _⟩)
    · rw [State.skip_beforePhaseD] at hskip
      rw [fetch_beforePhaseD, ← encode_of_decodeWord hd] at hf
      exact .inr (.inr ⟨hrun, hskip, i, hf, .of_exec hph⟩)
  · exact .inl ⟨x, hrun, .waitStep x s⟩

/-! ## The timers -/

theorem State.toNat_dt_beforePhaseD_le (s : State) : s.beforePhaseD.dt.toNat ≤ s.dt.toNat := by
  rw [State.dt_beforePhaseD, timerAfter_toNat]
  exact Nat.sub_le _ _

theorem State.toNat_st_beforePhaseD_le (s : State) : s.beforePhaseD.st.toNat ≤ s.st.toNat := by
  rw [State.st_beforePhaseD, timerAfter_toNat]
  exact Nat.sub_le _ _

/-- A step leaves no timer larger, or executes an instruction after the ticks, which raised none. -/
theorem step_timers_cases (h : step s = .next t) :
    (t.dt.toNat ≤ s.dt.toNat ∧ t.st.toNat ≤ s.st.toNat) ∨
    (s.run = .running ∧ s.skip = 0 ∧ ∃ i, fetch s = .ok (encode i) ∧ InstrEffect i s.beforePhaseD t) := by
  rcases step_loopFields_cases h with ⟨x, _, hk⟩ | ⟨_, hk⟩ | hexec
  · rw [hk.dt, hk.st]
    exact .inl ⟨le_rfl, le_rfl⟩
  · rw [hk.dt, hk.st]
    exact .inl ⟨s.toNat_dt_beforePhaseD_le, s.toNat_st_beforePhaseD_le⟩
  · exact .inr hexec

/-- Settles O51: a step that leaves a timer larger executes an instruction, and the timer clauses of `InstrEffect` leave only
the one that writes it. -/
theorem timersRiseOnlyByTheirWrites : Obligations.TimersRiseOnlyByTheirWrites := by
  unfold Obligations.TimersRiseOnlyByTheirWrites
  intro s t h
  rcases step_timers_cases h with ⟨hdt, hst⟩ | ⟨hrun, hskip, i, hf, he⟩
  · exact ⟨fun hlt => absurd hdt hlt.not_ge, fun hlt => absurd hst hlt.not_ge⟩
  · refine ⟨fun hlt => ⟨hrun, hskip, ?_⟩, fun hlt => ⟨hrun, hskip, ?_⟩⟩
    · by_contra! hno
      have hdt : t.dt = s.beforePhaseD.dt := he.delayTimer fun x hi => hno x (hi ▸ hf)
      exact (hdt ▸ s.toNat_dt_beforePhaseD_le).not_gt hlt
    · by_contra! hno
      have hst : t.st = s.beforePhaseD.st := he.soundTimer fun x hi => hno x (hi ▸ hf)
      exact (hst ▸ s.toNat_st_beforePhaseD_le).not_gt hlt

/-! ## The display -/

/-- Settles O58: a step that changes the pixels executes an instruction, and the pixel clause of `InstrEffect` leaves only
CLS and DXYN. -/
theorem onlyClsAndDrwChangeTheDisplay : Obligations.OnlyClsAndDrwChangeTheDisplay := by
  unfold Obligations.OnlyClsAndDrwChangeTheDisplay
  intro s t h hne
  rcases step_storage_cases h with hk | ⟨hrun, hskip, w, i, hf, hd, he⟩
  · exact absurd hk.fb hne
  · rw [← encode_of_decodeWord hd] at hf
    rw [← State.fb_beforePhaseD] at hne
    refine ⟨hrun, hskip, ?_⟩
    rcases he.of_fb_ne hne with rfl | ⟨x, y, n, rfl⟩
    · exact .inl hf
    · exact .inr ⟨x, y, n, hf⟩

/-! ## The start of the loop -/

/-- An iteration leaves the loop started, with the canvas size that its start left. -/
theorem step_running_canvas (hrun : s.run = .running) (h : step s = .next t) :
    t.started = true ∧ t.extents = s.beforePhaseD.extents := by
  rcases step_loopFields_cases h with ⟨x, hx, _⟩ | ⟨_, hk⟩ | ⟨_, _, i, _, he⟩
  · exact nomatch hrun.symm.trans hx
  · exact ⟨hk.started.trans s.started_beforePhaseD, hk.extents⟩
  · exact ⟨he.started.trans s.started_beforePhaseD, he.extents⟩

/-- The canvas from the first iteration on, where it is the canvas of boot in a loop that runs (R277). -/
theorem State.extents_beforePhaseD_of_canvas (h : s.started = true → s.extents = some (64, 32)) :
    s.beforePhaseD.extents = some (64, 32) := by
  rw [State.extents_beforePhaseD]
  split
  · next hs => exact h hs
  · rfl

/-- Settles O5: `load` looks at the start mark, and an iteration sets it. -/
theorem loadIsRefusedOnceTheLoopRuns : Obligations.LoadIsRefusedOnceTheLoopRuns := by
  unfold Obligations.LoadIsRefusedOnceTheLoopRuns
  exact ⟨fun _ _ hs => if_pos hs, fun _ _ hrun h => (step_running_canvas hrun h).1⟩

/-! ## Boot -/

theorem MachineInv.reset : MachineInv State.reset where
  memory := rfl
  pc := by decide
  skip := Nat.zero_le 1
  waiting := nofun
  accNonneg := le_rfl
  accBelowTick := by norm_num [State.reset, Config.tick]
  blocked := le_rfl
  stack := nofun

/-- Settles O60: boot is `load` on the reset state with its canvas; an iteration leaves the canvas that its start left, and a
key wait keeps it. -/
theorem bootEstablishesTheCanvas : Obligations.BootEstablishesTheCanvas := by
  unfold Obligations.BootEstablishesTheCanvas
  refine ⟨fun img => ?_, fun s hrun hs => ?_, fun s x hrun => ?_⟩
  · obtain ⟨m, hload, _, hinv, hbytes, hrest⟩ := loadCopiesTheImage (State.reset.setExtents 64 32) img rfl rfl
    exact ⟨m, hload, hinv { MachineInv.reset with }, hbytes, hrest⟩
  · obtain ⟨t, ht⟩ := phaseD_next s.beforePhaseD
    have hstep : step s = .next t := (step_running hrun).trans ht
    obtain ⟨hstarted, hextents⟩ := step_running_canvas hrun hstep
    exact ⟨t, hstep, hstarted, hextents.trans (State.extents_beforePhaseD_of_canvas hs)⟩
  · have hk := LoopFieldsKept.waitStep x s
    exact ⟨_, step_waiting hrun, hk.started, hk.extents⟩

/-! ## The outputs -/

theorem State.soundActive_iff (s : State) : s.soundActive = true ↔ s.st ≠ 0 := bne_iff_ne

theorem State.faultReport_eq_some_iff (s : State) (e : ErrRecord) : s.faultReport = some e ↔ s.run = .halted e := by
  unfold State.faultReport
  cases s.run with
  | running => simp
  | waitingKey x => simp
  | halted e' => simp

/-- Settles O53. -/
theorem outputsFollowTheState : Obligations.OutputsFollowTheState := by
  unfold Obligations.OutputsFollowTheState
  exact ⟨State.soundActive_iff, State.faultReport_eq_some_iff⟩

end Sys2Proof.Machine
end

section
/-! SUPPORT. The machine right after reset (spec/70_reset_and_hazards.md R290). -/

namespace Sys2Proof.Machine

@[simp] theorem State.reg_reset (x : RegIx) : State.reset.reg x = 0 := Vector.get_replicate 16 0 x

@[simp] theorem State.stack_get_reset (k : Fin 16) : State.reset.stack.get k = 0 := Vector.get_replicate 16 0 k

/-- "Memory zeroed" (R290): the empty memory lists no byte, so each address reads 0. -/
@[simp] theorem State.mem_read_reset (a : Nat) : State.reset.mem.read a = 0 := rfl

/-- Settles O1: the registers, the stack and the memory by the rules above, each other part by the definition of reset. -/
theorem resetLeavesTheSpecsValues : Obligations.ResetLeavesTheSpecsValues := by
  unfold Obligations.ResetLeavesTheSpecsValues
  exact ⟨State.reg_reset, rfl, rfl, rfl, State.stack_get_reset, rfl, rfl, rfl, rfl, rfl, rfl, State.mem_read_reset, rfl⟩

/-- Settles O2: the invariant at reset, from which boot starts as well. -/
theorem resetMeetsTheInvariant : Obligations.ResetMeetsTheInvariant := MachineInv.reset

end Sys2Proof.Machine
end
